-- ==== Sys2Proof/Word.lean ====
section
/-! DEFINITION. The block's one datum: the 64-bit pattern a register holds (rules R7, R10, R21). -/

namespace Sys2Proof

/-- A 64-bit pattern, bit 0 least significant (R10): the content of every host-visible register, a command word, the data of
one port access. -/
abbrev Word := BitVec 64

end Sys2Proof
end

