-- ==== Sys2Proof/Config.lean ====
section
/-! DEFINITION. The fixed parameters of the block (rule R8). The two OPEN parameters of that rule, BUS_BYTE_ORDER and the
command latency, are deliberately absent: R56 says a model of the block must not contain the first, R225 that a model keeps no
time. There is no free value: rules R98 and R191 leave no value of the block open. -/

namespace Sys2Proof.Config

/-- XLEN, the value width in bits (R7, R8). -/
def xlen : Nat := 64

/-- NREG, the number of host-visible registers (R8, R21). -/
def nreg : Nat := 8

/-- NCMD, the number of defined commands, opcodes 0 to 6 (R8, R71). -/
def ncmd : Nat := 7

/-- WITNESS_LIMIT, the exclusive upper bound of FERMAT's witness range (R8, R150). -/
def witnessLimit : Nat := 1000000

/-- I64_MIN (R8). -/
def i64Min : Int := -9223372036854775808

/-- I64_MAX (R8). -/
def i64Max : Int := 9223372036854775807

end Sys2Proof.Config
end

