-- ==== Sys2Proof/Syntax.lean ====
section
/-! DEFINITION. The command set of the block, NTE command set version 1 (rules R2, R71): one constructor per row of
spec/opcode_table.json. No command word carries an immediate, a register number or a mode field (R74), so no constructor has an
argument. -/

namespace Sys2Proof

/-- The seven commands a host issues by writing a command word to CMD (R2, R71). -/
inductive Instr where
  /-- NOP, opcode 0: the lifecycle with no arithmetic (R97). -/
  | nop
  /-- EMOD, opcode 1: the sign-following remainder (R107). -/
  | emod
  /-- MODPOW, opcode 2: modular exponentiation by squaring (R111). -/
  | modpow
  /-- GCD, opcode 3: the greatest common divisor (R116). -/
  | gcd
  /-- XGCD, opcode 4: the Bezout coefficients (R133). -/
  | xgcd
  /-- MODINV, opcode 5: the normalised inverse (R136). -/
  | modinv
  /-- FERMAT, opcode 6: the Fermat witness scan (R152). -/
  | fermat
deriving DecidableEq, Repr

end Sys2Proof
end

