-- ==== Sys2Proof/WellFormed.lean ====
section
/-! DEFINITION. What is well formed: a command (always, it has no operands), a command word (rules R70 to R72), the index of a
register access and the index of a register write (rules R52, R55). -/

namespace Sys2Proof

/-- A command has no operand, so every command is well formed (R74). -/
def Instr.wellFormed : Instr → Bool
  | .nop => true
  | .emod => true
  | .modpow => true
  | .gcd => true
  | .xgcd => true
  | .modinv => true
  | .fermat => true

/-- The ZERO field, bits 63:4, is 0 (R70). -/
def zeroFieldClear (w : Word) : Bool := w >>> 4 == 0#64

/-- The OP field, bits 3:0, names a command: it is 0 to 6 (R71). -/
def opcodeDefined (w : Word) : Bool := (w &&& 0xF#64).toNat ≤ 6

/-- A legal command word (R72: illegal when the ZERO field is not 0, or the OP field is 7 to 15). -/
def commandWordLegal (w : Word) : Bool := zeroFieldClear w && opcodeDefined w

/-- The index names a register (R52: 0 to 7, every other index is undefined and faults). -/
def indexDefined (i : Nat) : Bool := i ≤ 7

/-- The index names a register the host may write: OPA, OPB, OPC or CMD (R21, R55). -/
def indexWritable (i : Nat) : Bool := i ≤ 3

end Sys2Proof
end

