-- ==== Sys2Proof/Decode.lean ====
section
/-! DEFINITION. The decoder of command words, total on all 2^64 patterns and rejecting by name, and the encoder (rules R70 to
R73). The block fetches no bytes (R56, R62): the unit of decoding is the one 64-bit pattern written to CMD. -/

namespace Sys2Proof

/-- Why a command word is illegal (R72). -/
inductive IllegalWord where
  /-- Some bit of the ZERO field, 63:4, is set. -/
  | zeroField
  /-- The ZERO field is 0 and the OP field is 7 to 15. -/
  | reservedOpcode
deriving DecidableEq, Repr

/-- What a decoder makes of a pattern: one of the seven commands, or Illegal (R73). -/
inductive Decoded where
  | command (i : Instr)
  | illegal (why : IllegalWord)
deriving DecidableEq, Repr

/-- The command of a pattern that is legal. -/
def Decoded.instr? : Decoded → Option Instr
  | .command i => some i
  | .illegal _ => none

/-- The ZERO field of a command word, bits 63:4 (R70). -/
def zeroField (w : Word) : BitVec 60 := w.extractLsb' 4 60

/-- The OP field of a command word, bits 3:0, an unsigned number 0 to 15 (R70). -/
def opField (w : Word) : Nat := (w.extractLsb' 0 4).toNat

/-- The opcode map (R71); opcodes 7 to 15 are reserved (R72). -/
def decodeOp : Nat → Decoded
  | 0 => .command .nop
  | 1 => .command .emod
  | 2 => .command .modpow
  | 3 => .command .gcd
  | 4 => .command .xgcd
  | 5 => .command .modinv
  | 6 => .command .fermat
  | _ => .illegal .reservedOpcode

/-- The total decoder of R73: the ZERO field is tested first, then the opcode is looked up. -/
def decode (w : Word) : Decoded :=
  if zeroField w = 0#60 then decodeOp (opField w) else .illegal .zeroField

/-- The command word of each command (R71). -/
def encode : Instr → Word
  | .nop => 0x0000000000000000#64
  | .emod => 0x0000000000000001#64
  | .modpow => 0x0000000000000002#64
  | .gcd => 0x0000000000000003#64
  | .xgcd => 0x0000000000000004#64
  | .modinv => 0x0000000000000005#64
  | .fermat => 0x0000000000000006#64

/-- The command word whose low `nbits` bits are those of `w`, the bits above being 0. -/
def tableWord (nbits w : Nat) : Word := BitVec.ofNat 64 (w % 2 ^ nbits)

/-- What the decoder reads from an instruction of `nbits` bits `w`, numbered as spec/opcode_table.json numbers them. A command
word is exactly one 64-bit pattern (R70), so a number that needs more than 64 bits is no command word. -/
def decodeTableWord (nbits w : Nat) : Option Instr :=
  if w % 2 ^ nbits < 2 ^ 64 then (decode (tableWord nbits w)).instr? else none

end Sys2Proof
end

