-- ==== Sys2Proof/Machine/State.lean ====
section
/-! DEFINITION. The state of the block (rules R20 to R38): the eight host-visible registers, the engine's phase and, while a
command runs, its working values; and beside the block's own state the host's side of the port, which is the model's (log
entry 1): the host actions still to come and the responses the port has given. Plain data. -/

namespace Sys2Proof.Machine

/-- The command faults (R181). The engine raises one while running a command; the command is abandoned and the fault is taken by
`State.takeFault`, which records it in STATUS. Safe: the block goes on, as R95 says, and no value is produced. -/
inductive CommandFault where
  /-- The command word is not one of the seven legal words. Raised at decode (R72). -/
  | illegalCommand
  /-- A remainder with divisor 0. Raised by `emod` (R105), so by EMOD and MODPOW. -/
  | divideByZero
  /-- An exponent below 1. Raised by `modpow` (R109), so by MODPOW and FERMAT. -/
  | exponentRange
  /-- A negative argument. Raised by `gcd` and `xgcd` (R114, R130), so by GCD, XGCD, MODINV and FERMAT. -/
  | operandRange
  /-- A value outside I64. Raised by `chk` (R103), so by MODPOW and FERMAT. -/
  | overflow
deriving DecidableEq, Repr

/-- The two kinds of exceptional event of the block (R180). NO STEP ENDS IN ONE: the machine takes a command fault (recorded in
STATUS) and an access fault (answered on the port) and goes on, because nothing of this block is ever stuck (R191). -/
inductive Fault where
  /-- Raised by the engine inside a command; taken by `State.takeFault` (R187). Safe. -/
  | command (f : CommandFault)
  /-- `AccessFault(i)`: raised by the port on one register access, answered with `Response.fault` (R55, R184). Safe. -/
  | access (index : Nat)
deriving DecidableEq, Repr

/-- Reasons for having no meaning for an instruction. -/
inductive Refusal where
  /-- An arm of `exec` whose instruction has no meaning yet raises it; safe. No arm of this model does. -/
  | notModelled (mnemonic : String)
deriving DecidableEq, Repr

/-- The eight host-visible registers by name (R21). -/
inductive Reg where
  | opa | opb | opc | cmd | status | res0 | res1 | res2
deriving DecidableEq, Repr

/-- The operands a command works on: OPA, OPB, OPC as signed integers, sampled once at acceptance (R90, R92). -/
structure Operands where
  a : Int
  b : Int
  c : Int
deriving DecidableEq, Repr

/-- What `Run` packs on a fault-free end (R93): three results and the two flags. -/
structure Results where
  r0 : Int
  r1 : Int
  r2 : Int
  prime : Bool
  coprime : Bool
deriving DecidableEq, Repr

/-- The working values of XGCD and MODINV (R33, R130). The quotient `q` is taken anew in each iteration and never lives from one
iteration to the next. -/
structure EuclidVals where
  r0 : Int
  r1 : Int
  s0 : Int
  s1 : Int
  t0 : Int
  t1 : Int
deriving DecidableEq, Repr

/-- Where the engine stands in the running command, between two iterations, with the values live there (R33). -/
inductive Work where
  /-- Accepted and decoded; the command's function has not begun. -/
  | start (d : Decoded)
  /-- MODPOW before the iteration of bit `i - 1`; finished when `i = 0`. -/
  | modpow (acc : Int) (i : Nat)
  /-- GCD with its pair. -/
  | gcd (a b : Int)
  /-- XGCD with its three pairs. -/
  | xgcd (v : EuclidVals)
  /-- MODINV with the three pairs of its nested xgcd. -/
  | modinv (v : EuclidVals)
  /-- FERMAT at the head of its loop, about to try witness `a`. -/
  | fermat (a : Nat)
  /-- FERMAT inside the gcd of witness `a`. -/
  | fermatGcd (a : Nat) (x y : Int)
  /-- FERMAT inside the modpow of witness `a`. -/
  | fermatPow (a : Nat) (acc : Int) (i : Nat)
deriving DecidableEq, Repr

/-- The engine while it runs: the sampled operands and the working values (R33). -/
structure Engine where
  operands : Operands
  work : Work
deriving DecidableEq, Repr

/-- PHASE (R32): IDLE, or RUN with the working values that are live only there (R33). -/
inductive Phase where
  | idle
  | run (e : Engine)
deriving DecidableEq, Repr

/-- One action of the host (R20, R36, R76). `read`, `write` and `rst` are the three primitive lines of a host script. `launch` and
`pause` are the model's own (log entry 2): they let a run show the engine's own steps, which R96 allows a model to keep. -/
inductive HostAction where
  /-- `RegRead(index)` (R53). -/
  | read (index : Nat)
  /-- `RegWrite(index, data)` (R54); a write to CMD is one atomic transition (R96). -/
  | write (index : Nat) (data : Word)
  /-- The reset input is asserted and released (R210). -/
  | rst
  /-- A write of `data` to CMD whose command then runs one iteration a step (R96). -/
  | launch (data : Word)
  /-- The host does nothing for one step. -/
  | pause
deriving DecidableEq, Repr

/-- What the port answers to one access (R36). -/
inductive Response where
  /-- A read that is `ok`, with the register's pattern. -/
  | data (w : Word)
  /-- A write that is `ok`. -/
  | ok
  /-- An access fault on this index; it carries no data (R55). -/
  | fault (index : Nat)
deriving DecidableEq, Repr

/-- The state: the block's (R20: the eight registers, the phase, the working values; nothing else), then the host's side. -/
structure State where
  /-- OPA, index 0, operand (R22). -/
  opa : Word
  /-- OPB, index 1, operand (R22). -/
  opb : Word
  /-- OPC, index 2, operand (R22). -/
  opc : Word
  /-- CMD, index 3, the last pattern written (R25). -/
  cmd : Word
  /-- STATUS, index 4; its fields are in Machine/Flags.lean (R26). -/
  status : Word
  /-- RES0, index 5, result (R23). -/
  res0 : Word
  /-- RES1, index 6, result (R23). -/
  res1 : Word
  /-- RES2, index 7, result (R23). -/
  res2 : Word
  /-- PHASE, with the working values while in RUN (R32, R33). -/
  phase : Phase
  /-- The model's own: the host's actions still to come, next first (log entry 1). -/
  script : List HostAction
  /-- The model's own: the responses the port has given, latest first (log entry 1). -/
  transcript : List Response
deriving DecidableEq, Repr

/-- The machine right after reset (R37): every register 0, PHASE IDLE, no working value live; and, on the host's side, nothing
asked and nothing answered. -/
def State.reset : State where
  opa := 0#64
  opb := 0#64
  opc := 0#64
  cmd := 0#64
  status := 0#64
  res0 := 0#64
  res1 := 0#64
  res2 := 0#64
  phase := .idle
  script := []
  transcript := []

end Sys2Proof.Machine
end

