-- ==== Sys2Proof/Machine/Flags.lean ====
section
/-! DEFINITION. The fields of STATUS and the three ways the engine writes them: at acceptance, at a fault-free completion and at a
faulted one (rules R26, R27, R90, R181). STATUS stays a 64-bit pattern, since the host reads it whole. -/

namespace Sys2Proof.Machine

/-- DONE, bit 0 (R26). -/
def statusDone (w : Word) : Bool := w.getLsbD 0

/-- ERR, bit 1 (R26). -/
def statusErr (w : Word) : Bool := w.getLsbD 1

/-- PRIME, bit 2 (R26). -/
def statusPrime (w : Word) : Bool := w.getLsbD 2

/-- COPRIME, bit 3 (R26). -/
def statusCoprime (w : Word) : Bool := w.getLsbD 3

/-- ERRCODE, bits 7:4 (R26). -/
def statusErrcode (w : Word) : BitVec 4 := w.extractLsb' 4 4

/-- The reserved field, bits 63:8 (R26). -/
def statusReserved (w : Word) : BitVec 56 := w.extractLsb' 8 56

/-- Write one flag of STATUS. -/
def setFlag (w : Word) (i : Nat) (b : Bool) : Word :=
  if b then w ||| (1#64 <<< i) else w &&& ~~~(1#64 <<< i)

/-- Write ERRCODE. -/
def setErrcode (w : Word) (code : BitVec 4) : Word :=
  (w &&& ~~~0xF0#64) ||| (code.setWidth 64 <<< 4)

/-- The code a fault leaves in ERRCODE (R181). -/
def CommandFault.code : CommandFault → BitVec 4
  | .illegalCommand => 1#4
  | .divideByZero => 2#4
  | .exponentRange => 3#4
  | .operandRange => 4#4
  | .overflow => 5#4

/-- STATUS after acceptance: ERR, ERRCODE, PRIME and COPRIME cleared, DONE as it was (R92). -/
def statusAccept (w : Word) : Word :=
  setFlag (setFlag (setErrcode (setFlag w 1 false) 0#4) 2 false) 3 false

/-- STATUS after a fault-free completion: PRIME and COPRIME as the command says, DONE set (R94). -/
def statusComplete (w : Word) (prime coprime : Bool) : Word :=
  setFlag (setFlag (setFlag w 2 prime) 3 coprime) 0 true

/-- STATUS after a faulted completion: ERR set, ERRCODE the fault's code, DONE set (R95). -/
def statusFault (w : Word) (f : CommandFault) : Word :=
  setFlag (setErrcode (setFlag w 1 true) f.code) 0 true

end Sys2Proof.Machine
end

