-- ==== Sys2Proof/Machine/Operands.lean ====
section
/-! DEFINITION. Operands and numbers: the reading of a pattern as a signed integer and back, the range I64, the bits of an
exponent (rule R11), and the sampling of the three operand registers at acceptance (rules R74, R75, R92). -/

namespace Sys2Proof.Machine

/-- `to_int(w)`, two's complement (R11). -/
def toInt (w : Word) : Int := w.toInt

/-- `to_bits(v)`, the two's complement pattern of `v` in I64 (R11). Outside I64 the spec leaves it undefined and applies it
nowhere; this total function then keeps the low 64 bits (log entry 5). -/
def toBits (v : Int) : Word := BitVec.ofInt 64 v

/-- Membership in I64 (R7). -/
def inI64 (v : Int) : Bool := Config.i64Min ≤ v && v ≤ Config.i64Max

/-- `bitlen(v)` for `v ≥ 1`, the number of bits of `v` (R11). -/
def bitlen (v : Nat) : Nat := v.log2 + 1

/-- `bit(v, i) = floor(v / 2^i) mod 2` (R11). -/
def bit (v i : Nat) : Nat := v / 2 ^ i % 2

/-- `[P]`, the result value of a condition: 1 when it holds and 0 otherwise (R93). -/
def ofFlag (p : Bool) : Int := if p then 1 else 0

/-- The operands read at acceptance: OPA, OPB and OPC as signed integers (R90, R92). Which command uses which is R75: arguments
take OPA, OPB, OPC in the order of the function's signature. -/
def State.sample (s : State) : Operands where
  a := toInt s.opa
  b := toInt s.opb
  c := toInt s.opc

end Sys2Proof.Machine
end

