-- ==== Sys2Proof/Machine/Ops.lean ====
section
/-! DEFINITION. The named operations over the registers: the register map, the lifecycle shared by every command (acceptance,
fault-free completion, taking a fault), reset, and the port's response (rules R52, R90 to R95, R187, R210). The block has no
memory (R50). -/

namespace Sys2Proof.Machine

/-- The register an index names (R52); indices 8 and above name nothing. -/
def Reg.ofIndex? : Nat → Option Reg
  | 0 => some .opa
  | 1 => some .opb
  | 2 => some .opc
  | 3 => some .cmd
  | 4 => some .status
  | 5 => some .res0
  | 6 => some .res1
  | 7 => some .res2
  | _ => none

/-- The index of a register (R21). -/
def Reg.index : Reg → Nat
  | .opa => 0
  | .opb => 1
  | .opc => 2
  | .cmd => 3
  | .status => 4
  | .res0 => 5
  | .res1 => 6
  | .res2 => 7

/-- `x[i]`: the content of a register (R12). -/
def State.reg (s : State) : Reg → Word
  | .opa => s.opa
  | .opb => s.opb
  | .opc => s.opc
  | .cmd => s.cmd
  | .status => s.status
  | .res0 => s.res0
  | .res1 => s.res1
  | .res2 => s.res2

/-- The `busy` output: 1 exactly while PHASE = RUN (R36). -/
def State.busy (s : State) : Bool :=
  match s.phase with
  | .idle => false
  | .run _ => true

/-- Acceptance (R92): ERR, ERRCODE, PRIME and COPRIME are cleared and the results set to 0. The operands are sampled beside it,
by `State.sample`. -/
def State.accept (s : State) : State :=
  { s with status := statusAccept s.status, res0 := 0#64, res1 := 0#64, res2 := 0#64 }

/-- Fault-free completion (R94). -/
def State.complete (r : Results) (s : State) : State :=
  { s with
    res0 := toBits r.r0
    res1 := toBits r.r1
    res2 := toBits r.r2
    status := statusComplete s.status r.prime r.coprime
    phase := .idle }

/-- TAKING A COMMAND FAULT (R95, R187): ERR, ERRCODE and DONE are written and the engine is idle again. Nothing is saved, no mode
changes and control goes nowhere. There is no return from it (R188): the next acceptance clears the record. -/
def State.takeFault (f : CommandFault) (s : State) : State :=
  { s with status := statusFault s.status f, phase := .idle }

/-- Completion, by what `Run` came to (R90). -/
def State.finish (out : Except CommandFault Results) (s : State) : State :=
  match out with
  | .ok r => s.complete r
  | .error f => s.takeFault f

/-- `Execute` (R90) for a command whose function is `run`: acceptance, the function on the sampled operands, completion, as one
IDLE to IDLE transition (R96). -/
def State.execute (run : Operands → Except CommandFault Results) (s : State) : State :=
  s.accept.finish (run s.sample)

/-- `Execute` of an illegal command word: accepted as a command that does nothing but fault (R72). -/
def State.executeIllegal (s : State) : State := s.execute fun _ => .error .illegalCommand

/-- Reset (R210): every piece of the block's state takes its reset value, in either phase (R211). The host's side is no state of
the block and stays (log entry 1). -/
def State.resetBlock (s : State) : State :=
  { State.reset with script := s.script, transcript := s.transcript }

/-- The port gives a response. -/
def State.respond (r : Response) (s : State) : State :=
  { s with transcript := r :: s.transcript }

/-- Apply `f` to the state an outcome goes on with. -/
def afterNext (f : State → State) :
    Host.Outcome State Fault Refusal → Host.Outcome State Fault Refusal
  | .next s => .next (f s)
  | .fault r => .fault r
  | .refused r => .refused r

end Sys2Proof.Machine
end

