-- ==== Sys2Proof/Machine/Control.lean ====
section
/-! DEFINITION. The family without arithmetic: NOP (rule R97), the block's only system command. -/

namespace Sys2Proof.Machine

/-- NOP's function: `return ok(0, 0, 0, 0, 0)` (R97). -/
def runNop (_ : Operands) : Except CommandFault Results := .ok ⟨0, 0, 0, false, false⟩

/-- NOP (R97). -/
def execNop (s : State) : Host.Outcome State Fault Refusal := .next (s.execute runNop)

end Sys2Proof.Machine
end

