-- ==== Sys2Proof/Machine/Reducer.lean ====
section
/-! DEFINITION. The reducer and the arithmetic laws: the range check `chk`, the sign-following remainder `emod` and its command
EMOD (rules R100 to R107). Values are mathematical integers; nothing wraps (R100). -/

namespace Sys2Proof.Machine

/-- `chk(v)`: `v` if it lies in I64, otherwise Overflow, on the exact value (R103). -/
def chk (v : Int) : Except CommandFault Int := if inI64 v then .ok v else .error .overflow

/-- `emod(a, b) = a − b * floor(a / b)`, or DivideByZero when `b = 0` (R105). `Int.fdiv` rounds toward minus infinity (R118). -/
def emod (a b : Int) : Except CommandFault Int :=
  if b = 0 then .error .divideByZero else .ok (a - b * a.fdiv b)

/-- EMOD's function: dividend OPA, divisor OPB, remainder to RES0 (R75, R107). -/
def runEmod (o : Operands) : Except CommandFault Results := do
  let r ← emod o.a o.b
  return ⟨r, 0, 0, false, false⟩

/-- EMOD (R107). -/
def execEmod (s : State) : Host.Outcome State Fault Refusal := .next (s.execute runEmod)

end Sys2Proof.Machine
end

