-- ==== Sys2Proof/Machine/Euclid.lean ====
section
/-! DEFINITION. The EGU, extended Euclidean GCD unit: the functions `gcd`, `xgcd` and `modinv` and their commands GCD, XGCD and
MODINV (rules R113 to R116, R130 to R138). Each `while` loop carries a bound that its own measure, the second remainder, never
exceeds (log entry 6). -/

namespace Sys2Proof.Machine

/-- The loop of `gcd` (R114): `(a, b) <- (b, emod(a, b))` while `b ≠ 0`. -/
def gcdLoop : Nat → Int → Int → Except CommandFault Int
  | 0, a, _ => .ok a
  | fuel + 1, a, b =>
    if b = 0 then .ok a
    else do
      let r ← emod a b
      gcdLoop fuel b r

/-- `gcd(a, b)`; a negative argument faults before the loop (R114). -/
def gcd (a b : Int) : Except CommandFault Int :=
  if a < 0 ∨ b < 0 then .error .operandRange else gcdLoop b.toNat a b

/-- The pairs at the start of `xgcd` (R130). -/
def EuclidVals.start (a b : Int) : EuclidVals where
  r0 := a
  r1 := b
  s0 := 1
  s1 := 0
  t0 := 0
  t1 := 1

/-- One iteration of `xgcd`: the quotient, the r pair, the s pair, the t pair, the product checked before the difference (R130). -/
def xgcdIter (v : EuclidVals) : Except CommandFault EuclidVals := do
  let q := v.r0.fdiv v.r1
  let qs ← chk (q * v.s1)
  let s ← chk (v.s0 - qs)
  let qt ← chk (q * v.t1)
  let t ← chk (v.t0 - qt)
  return { r0 := v.r1, r1 := v.r0 - q * v.r1, s0 := v.s1, s1 := s, t0 := v.t1, t1 := t }

/-- The loop of `xgcd`, while `r1 ≠ 0` (R130). -/
def xgcdLoop : Nat → EuclidVals → Except CommandFault EuclidVals
  | 0, v => .ok v
  | fuel + 1, v =>
    if v.r1 = 0 then .ok v
    else do
      let v ← xgcdIter v
      xgcdLoop fuel v

/-- `xgcd(a, b)`, ending with `s = s0`, `t = t0`, `g = r0` (R130). -/
def xgcd (a b : Int) : Except CommandFault EuclidVals :=
  if a < 0 ∨ b < 0 then .error .operandRange else xgcdLoop b.toNat (.start a b)

/-- The normalisation of `modinv`: one addition of `m` to a negative `s`, never more (R135). -/
def normalise (s m : Int) : Except CommandFault Int := if 0 ≤ s then .ok s else chk (s + m)

/-- `modinv(a, m)`, returning `(d, g)` (R135). -/
def modinv (a m : Int) : Except CommandFault (Int × Int) := do
  let v ← xgcd a m
  let d ← normalise v.s0 m
  return (d, v.r0)

/-- What GCD packs: `g` to RES0, COPRIME when `g = 1` (R93, R116). -/
def gcdResults (g : Int) : Results := ⟨g, 0, 0, false, g == 1⟩

/-- What XGCD packs: `s`, `t` and `g`, COPRIME when `g = 1` (R93, R133). -/
def xgcdResults (v : EuclidVals) : Results := ⟨v.s0, v.t0, v.r0, false, v.r0 == 1⟩

/-- What MODINV packs: `d` to RES0, `g` to RES2, COPRIME when `g = 1` (R93, R136). -/
def modinvResults (d g : Int) : Results := ⟨d, 0, g, false, g == 1⟩

/-- GCD's function on OPA and OPB (R75, R116). -/
def runGcd (o : Operands) : Except CommandFault Results := do
  let g ← gcd o.a o.b
  return gcdResults g

/-- XGCD's function on OPA and OPB (R75, R133). -/
def runXgcd (o : Operands) : Except CommandFault Results := do
  let v ← xgcd o.a o.b
  return xgcdResults v

/-- MODINV's function: the value to invert OPA, the modulus OPB (R75, R136). -/
def runModinv (o : Operands) : Except CommandFault Results := do
  let (d, g) ← modinv o.a o.b
  return modinvResults d g

/-- GCD (R116). -/
def execGcd (s : State) : Host.Outcome State Fault Refusal := .next (s.execute runGcd)

/-- XGCD (R133). -/
def execXgcd (s : State) : Host.Outcome State Fault Refusal := .next (s.execute runXgcd)

/-- MODINV (R136). -/
def execModinv (s : State) : Host.Outcome State Fault Refusal := .next (s.execute runModinv)

end Sys2Proof.Machine
end

