-- ==== Sys2Proof/Machine/ModExp.lean ====
section
/-! DEFINITION. The MEE, modular exponentiation by squaring: the loop `modpow`, the recursion the source describes it by, and the
command MODPOW (rules R108 to R112). -/

namespace Sys2Proof.Machine

/-- One iteration of `modpow` for bit `i` of the exponent: square, check, reduce; then, if the bit is 1, multiply by the base,
check, reduce (R109). -/
def modpowIter (base : Int) (e : Nat) (m : Int) (i : Nat) (acc : Int) : Except CommandFault Int := do
  let sq ← chk (acc * acc)
  let acc ← emod sq m
  if bit e i = 1 then
    let p ← chk (acc * base)
    emod p m
  else
    return acc

/-- The iterations of `modpow` for the bits `i - 1` down to 0 (R109). -/
def modpowLoop (base : Int) (e : Nat) (m : Int) : Nat → Int → Except CommandFault Int
  | 0, acc => .ok acc
  | i + 1, acc => do
    let acc ← modpowIter base e m i acc
    modpowLoop base e m i acc

/-- `modpow(base, e, m)`, the hardware's loop (R109). The exponent is tested before anything else. -/
def modpow (base e m : Int) : Except CommandFault Int :=
  if e < 1 then .error .exponentRange
  else modpowLoop base e.toNat m (bitlen e.toNat - 1) base

/-- The recursion of R108 for an exponent that has passed the test, `fuel` bounding its depth. -/
def modpowRecFuel (base m : Int) : Nat → Nat → Except CommandFault Int
  | 0, _ => .ok base
  | fuel + 1, e =>
    if e ≤ 1 then .ok base
    else do
      let h ← modpowRecFuel base m fuel (e / 2)
      let sq ← chk (h * h)
      let sq ← emod sq m
      if e % 2 = 1 then
        let p ← chk (sq * base)
        emod p m
      else
        return sq

/-- `modpow_rec(base, e, m)`, the reference definition by recursion on the exponent (R108). The depth never reaches `e`. The machine
runs `modpow`; that the two are equal is a statement. -/
def modpowRec (base e m : Int) : Except CommandFault Int :=
  if e < 1 then .error .exponentRange else modpowRecFuel base m e.toNat e.toNat

/-- MODPOW's function: base OPA, exponent OPB, modulus OPC, result to RES0 (R75, R111). -/
def runModpow (o : Operands) : Except CommandFault Results := do
  let r ← modpow o.a o.b o.c
  return ⟨r, 0, 0, false, false⟩

/-- MODPOW (R111). -/
def execModpow (s : State) : Host.Outcome State Fault Refusal := .next (s.execute runModpow)

end Sys2Proof.Machine
end

