-- ==== Sys2Proof/Machine/Fermat.lean ====
section
/-! DEFINITION. The FPT, Fermat primality tester: the witness loop `fermat` and the command FERMAT (rules R150 to R155). -/

namespace Sys2Proof.Machine

/-- The body of the loop for witness `a`: whether `a` is coprime to `n` and its power is not congruent to 1, a violation (R150). A
fault of `gcd`, `chk`, `modpow` or `emod` ends it. -/
def fermatViolates (n a : Int) : Except CommandFault Bool := do
  let g ← gcd a n
  if g = 1 then
    let e ← chk (n - 1)
    let r ← modpow a e n
    let r ← emod r n
    return r != 1
  else
    return false

/-- The scan of `count` witnesses from `a` upwards, ending at the first violation with verdict 0 and that witness, or with verdict 1
and 0 (R150, R151). -/
def fermatScan (n : Int) : Nat → Nat → Except CommandFault (Int × Int)
  | 0, _ => .ok (1, 0)
  | count + 1, a => do
    let violated ← fermatViolates n a
    if violated then return (0, (a : Int)) else fermatScan n count (a + 1)

/-- `fermat(n)` over the witnesses 1 up to WITNESS_LIMIT − 1 (R150). -/
def fermat (n : Int) : Except CommandFault (Int × Int) := fermatScan n (Config.witnessLimit - 1) 1

/-- What FERMAT packs: the verdict to RES0, the first violating witness to RES1, PRIME when the verdict is 1 (R93, R152). -/
def fermatResults (verdict witness : Int) : Results := ⟨verdict, witness, 0, verdict == 1, false⟩

/-- FERMAT's function on OPA (R75, R152). -/
def runFermat (o : Operands) : Except CommandFault Results := do
  let (v, w) ← fermat o.a
  return fermatResults v w

/-- FERMAT (R152). -/
def execFermat (s : State) : Host.Outcome State Fault Refusal := .next (s.execute runFermat)

end Sys2Proof.Machine
end

