-- ==== Sys2Proof/Machine/Dispatch.lean ====
section
/-! DEFINITION. One arm per command (rule R93). Each is the command's whole lifecycle, IDLE to IDLE (rules R90, R96), on a state in
which the command word already stands in CMD (rule R54). -/

namespace Sys2Proof.Machine

def exec (i : Instr) (s : State) : Host.Outcome State Fault Refusal :=
  match i with
  | .nop => Sys2Proof.Machine.execNop s
  | .emod => Sys2Proof.Machine.execEmod s
  | .modpow => Sys2Proof.Machine.execModpow s
  | .gcd => Sys2Proof.Machine.execGcd s
  | .xgcd => Sys2Proof.Machine.execXgcd s
  | .modinv => Sys2Proof.Machine.execModinv s
  | .fermat => Sys2Proof.Machine.execFermat s

end Sys2Proof.Machine
end

