-- ==== Sys2Proof/Machine/Engine.lean ====
section
/-! DEFINITION. The engine as an agent of its own (rules R20, R91): in RUN it makes one turn a step, a turn being the beginning of
the command's function or one iteration of one of its loops. R96 lets a model keep this and requires that it reach the same IDLE
state as the atomic reading. The iterations are those the functions of Machine/ModExp.lean, Euclid.lean and Fermat.lean run. -/

namespace Sys2Proof.Machine

/-- What one turn of the engine comes to. -/
inductive Turn where
  /-- The command runs on. -/
  | goOn (w : Work)
  /-- `Run` ended, with results or with a fault (R93). -/
  | ended (out : Except CommandFault Results)
deriving Repr

/-- Go on with the value of `x`, or end with its fault (R93: any `raise`, at any depth, ends `Run` at once). -/
def Turn.from {α : Type} (x : Except CommandFault α) (k : α → Turn) : Turn :=
  match x with
  | .ok v => k v
  | .error f => .ended (.error f)

/-- Begin `modpow`: the exponent test, then the accumulator at the base with the bits below the top one to come (R109). -/
def modpowBegin (base e : Int) (k : Int → Nat → Work) : Turn :=
  if e < 1 then .ended (.error .exponentRange) else .goOn (k base (bitlen e.toNat - 1))

/-- One turn of `xgcd`, whose end is passed to `k` (R130). -/
def xgcdTurn (v : EuclidVals) (wrap : EuclidVals → Work) (k : EuclidVals → Turn) : Turn :=
  if v.r1 = 0 then k v else .from (xgcdIter v) fun v => .goOn (wrap v)

/-- Begin the function of a command (R93). NOP and EMOD are a single turn (R225). -/
def beginTurn (o : Operands) : Decoded → Turn
  | .illegal _ => .ended (.error .illegalCommand)
  | .command .nop => .ended (runNop o)
  | .command .emod => .ended (runEmod o)
  | .command .modpow => modpowBegin o.a o.b .modpow
  | .command .gcd => if o.a < 0 ∨ o.b < 0 then .ended (.error .operandRange) else .goOn (.gcd o.a o.b)
  | .command .xgcd =>
    if o.a < 0 ∨ o.b < 0 then .ended (.error .operandRange) else .goOn (.xgcd (.start o.a o.b))
  | .command .modinv =>
    if o.a < 0 ∨ o.b < 0 then .ended (.error .operandRange) else .goOn (.modinv (.start o.a o.b))
  | .command .fermat => .goOn (.fermat 1)

/-- One turn of the engine on the sampled operands. -/
def turn (o : Operands) : Work → Turn
  | .start d => beginTurn o d
  | .modpow acc 0 => .ended (.ok ⟨acc, 0, 0, false, false⟩)
  | .modpow acc (i + 1) => .from (modpowIter o.a o.b.toNat o.c i acc) fun acc => .goOn (.modpow acc i)
  | .gcd a b =>
    if b = 0 then .ended (.ok (gcdResults a)) else .from (emod a b) fun r => .goOn (.gcd b r)
  | .xgcd v => xgcdTurn v .xgcd fun v => .ended (.ok (xgcdResults v))
  | .modinv v =>
    xgcdTurn v .modinv fun v => .from (normalise v.s0 o.b) fun d => .ended (.ok (modinvResults d v.r0))
  | .fermat a =>
    if Config.witnessLimit ≤ a then .ended (.ok (fermatResults 1 0))
    else if (a : Int) < 0 ∨ o.a < 0 then .ended (.error .operandRange)
    else .goOn (.fermatGcd a a o.a)
  | .fermatGcd a x y =>
    if y = 0 then
      if x = 1 then .from (chk (o.a - 1)) fun e => modpowBegin a e (.fermatPow a)
      else .goOn (.fermat (a + 1))
    else .from (emod x y) fun r => .goOn (.fermatGcd a y r)
  | .fermatPow a acc 0 =>
    .from (emod acc o.a) fun r =>
      if r = 1 then .goOn (.fermat (a + 1)) else .ended (.ok (fermatResults 0 a))
  | .fermatPow a acc (i + 1) =>
    .from (modpowIter a (o.a - 1).toNat o.a i acc) fun acc => .goOn (.fermatPow a acc i)

/-- Acceptance of a command word already stored in CMD, the engine then being in RUN (R90, R92). -/
def State.launch (w : Word) (s : State) : State :=
  { s.accept with phase := .run ⟨s.sample, .start (decode w)⟩ }

/-- One step of the engine in RUN. At completion the CMD write that started the command gets its response (R91). -/
def State.engineStep (e : Engine) (s : State) : State :=
  match turn e.operands e.work with
  | .goOn w => { s with phase := .run { e with work := w } }
  | .ended out => (s.finish out).respond .ok

end Sys2Proof.Machine
end

