-- ==== Sys2Proof/Machine/Port.lean ====
section
/-! DEFINITION. The host's port: `RegRead` and `RegWrite` (rules R53 to R55), the write of a command word, reset (rule R210), and
what the host's next action does in IDLE and in RUN (rules R20, R91). -/

namespace Sys2Proof.Machine

/-- `RegRead(i)`: the register's pattern or `AccessFault(i)`; no side effect (R53). -/
def regRead (i : Nat) (s : State) : Except Fault Word :=
  match Reg.ofIndex? i with
  | none => .error (.access i)
  | some r => .ok (s.reg r)

/-- A write to CMD: the pattern is stored whether or not it is legal, then decoded and executed (R25, R54, R72). -/
def commandWrite (w : Word) (s : State) : Host.Outcome State Fault Refusal :=
  match decode w with
  | .command i => exec i { s with cmd := w }
  | .illegal _ => .next { s with cmd := w }.executeIllegal

/-- `RegWrite(i, w)`: an operand register is replaced, a write to CMD runs the command, every other index is an access fault (R54). -/
def regWrite (i : Nat) (w : Word) (s : State) : Except Fault (Host.Outcome State Fault Refusal) :=
  match Reg.ofIndex? i with
  | some .opa => .ok (.next { s with opa := w })
  | some .opb => .ok (.next { s with opb := w })
  | some .opc => .ok (.next { s with opc := w })
  | some .cmd => .ok (commandWrite w s)
  | some .status => .error (.access i)
  | some .res0 => .error (.access i)
  | some .res1 => .error (.access i)
  | some .res2 => .error (.access i)
  | none => .error (.access i)

/-- The port serves a read: the data, or `fault` (R53, R55). -/
def serveRead (i : Nat) (s : State) : State :=
  match regRead i s with
  | .ok w => s.respond (.data w)
  | .error _ => s.respond (.fault i)

/-- The port serves a write: `ok`, for a CMD write once the command has completed, with or without a fault; or `fault` (R54, R55). -/
def serveWrite (i : Nat) (w : Word) (s : State) : Host.Outcome State Fault Refusal :=
  match regWrite i w s with
  | .ok out => afterNext (State.respond .ok) out
  | .error _ => .next (s.respond (.fault i))

/-- In IDLE the host acts: its next action, already taken off the script, takes effect completely (R60). -/
def hostAct (a : HostAction) (s : State) : Host.Outcome State Fault Refusal :=
  match a with
  | .read i => .next (serveRead i s)
  | .write i w => serveWrite i w s
  | .rst => .next s.resetBlock
  | .launch w => .next ({ s with cmd := w }.launch w)
  | .pause => .next s

/-- A step in IDLE. With nothing asked, nothing happens (R20, R213). -/
def idleStep (s : State) : Host.Outcome State Fault Refusal :=
  match s.script with
  | [] => .next s
  | a :: rest => hostAct a { s with script := rest }

/-- A step in RUN: reset ends the command (R211); otherwise the engine makes a turn, and an access that is presented is held, not
refused and not lost (R91). -/
def runStep (e : Engine) (s : State) : State :=
  match s.script with
  | .rst :: rest => { s with script := rest }.resetBlock
  | .pause :: rest => { s with script := rest }.engineStep e
  | _ => s.engineStep e

end Sys2Proof.Machine
end

