-- ==== Sys2Proof/Machine/Step.lean ====
section
/-! DEFINITION. One step of the block and its host: PHASE says which of the two agents moves (rules R20, R91). The block fetches no
instructions (rule R30): the next command is the one the host writes to CMD next. -/

namespace Sys2Proof.Machine

/-- One step: the host has no enabled step in RUN, the engine none in IDLE (R91). -/
def step (s : State) : Host.Outcome State Fault Refusal :=
  match s.phase with
  | .idle => idleStep s
  | .run e => .next (runStep e s)

/-- `s` with the block idle and the host about to write the command word of `nbits` bits `w` to CMD (log entry 7). -/
def State.withFetchWord (s : State) (nbits w : Nat) : State :=
  { s with phase := .idle, script := .write 3 (tableWord nbits w) :: s.script }

end Sys2Proof.Machine
end

