-- ==== Sys2Proof/Machine/Script.lean ====
section
/-! DEFINITION. The host script notation (rules R76 to R78): lines, pseudo-instructions, the port requests they stand for, the
written encoding of those requests, and whether a response is the one a line expects. The hardware sees only the requests (R77). -/

namespace Sys2Proof.Machine.Script

/-- `<reg>`: a register by name, or `#k`, a raw index (R76). -/
inductive RegRef where
  | named (r : Reg)
  | raw (k : Nat)
deriving DecidableEq, Repr

/-- `<value>`: a decimal integer in I64, a 64-bit pattern, or a mnemonic standing for its command word (R76). -/
inductive Value where
  | int (v : Int)
  | hex (w : Word)
  | mnemonic (i : Instr)
deriving DecidableEq, Repr

/-- What a line says it expects: nothing, `= <value>`, or `! fault` (R76). -/
inductive Expect where
  | nothing
  | value (v : Value)
  | fault
deriving DecidableEq, Repr

/-- The three primitive lines (R76). -/
inductive Line where
  | wr (r : RegRef) (v : Value) (expect : Expect)
  | rd (r : RegRef) (expect : Expect)
  | rst
deriving DecidableEq, Repr

/-- `index(<reg>)` (R76). -/
def RegRef.index : RegRef → Nat
  | .named r => r.index
  | .raw k => k

/-- The pattern of a value (R76): `to_bits` of an integer, a pattern as it stands, the command word of a mnemonic. DESIGN CHOICE
(safe, log entry 14): R76 calls a mnemonic only meaningful when written to CMD and leaves open what it is elsewhere; here it is its
command word in every position, a write of another register and an expectation included. -/
def Value.bits : Value → Word
  | .int v => toBits v
  | .hex w => w
  | .mnemonic i => encode i

/-- A decimal value lies in I64 (R76). A mnemonic is well formed in every position: DESIGN CHOICE (safe, log entry 14), R76 leaves
open whether one not written to CMD is. -/
def Value.wellFormed : Value → Bool
  | .int v => inI64 v
  | .hex _ => true
  | .mnemonic _ => true

/-- An expectation `= <value>` has a well-formed value (R76). -/
def Expect.wellFormed : Expect → Bool
  | .nothing => true
  | .value v => v.wellFormed
  | .fault => true

/-- A line has well-formed values, and only a `rd` line carries an expectation `= <value>` (R76). A mnemonic is admitted whatever
the register: DESIGN CHOICE (safe, log entry 14). -/
def Line.wellFormed : Line → Bool
  | .wr _ v .nothing => v.wellFormed
  | .wr _ v .fault => v.wellFormed
  | .wr _ _ (.value _) => false
  | .rd _ expect => expect.wellFormed
  | .rst => true

/-- The host action of a line (R76). A mnemonic written to a register other than CMD writes its command word there: DESIGN CHOICE
(safe, log entry 14), R76 gives it no meaning there. -/
def Line.action : Line → HostAction
  | .wr r v _ => .write r.index v.bits
  | .rd r _ => .read r.index
  | .rst => .rst

/-- Whether a response is the one expected (R76). A mnemonic as the expected value is its command word: DESIGN CHOICE (safe, log
entry 14). -/
def Expect.met : Expect → Response → Bool
  | .nothing, _ => true
  | .value v, .data w => w == v.bits
  | .value _, .ok => false
  | .value _, .fault _ => false
  | .fault, .fault _ => true
  | .fault, .data _ => false
  | .fault, .ok => false

/-- `wr <reg>, <value>` without an expectation. -/
def wr (r : Reg) (v : Value) : Line := .wr (.named r) v .nothing

/-- `cmd <MNEMONIC>` expands to `wr CMD, <MNEMONIC>` (R77). -/
def cmd (i : Instr) : List Line := [wr .cmd (.mnemonic i)]

/-- `nop` (R77). -/
def nop : List Line := cmd .nop

/-- `emod a, b` (R77). -/
def emod (a b : Value) : List Line := [wr .opa a, wr .opb b] ++ cmd .emod

/-- `modpow base, exp, mod` (R77). -/
def modpow (base exp mod : Value) : List Line :=
  [wr .opa base, wr .opb exp, wr .opc mod] ++ cmd .modpow

/-- `gcd a, b` (R77). -/
def gcd (a b : Value) : List Line := [wr .opa a, wr .opb b] ++ cmd .gcd

/-- `xgcd a, b` (R77). -/
def xgcd (a b : Value) : List Line := [wr .opa a, wr .opb b] ++ cmd .xgcd

/-- `modinv a, m` (R77). -/
def modinv (a m : Value) : List Line := [wr .opa a, wr .opb m] ++ cmd .modinv

/-- `fermat n` (R77). -/
def fermat (n : Value) : List Line := [wr .opa n] ++ cmd .fermat

/-- The host actions of a script, in order (R76). -/
def actions (script : List Line) : List HostAction := script.map Line.action

/-- The hexadecimal digit of a number below 16, capitals as R78 writes them. -/
def hexDigit (d : Nat) : Char :=
  if d < 10 then Char.ofNat (48 + d) else Char.ofNat (55 + d)

/-- The 16 hexadecimal digits of a pattern, the most significant first (R78). -/
def hex16 (w : Word) : List Char :=
  ((List.range 16).map fun k => hexDigit (w.toNat / 16 ^ k % 16)).reverse

/-- The written encoding of a port request: `W <index> <16 hex digits>` or `R <index>` (R78). `rst` and the model's own `pause` are
not port requests and have none; a `launch` is a write to CMD. -/
def requestText : HostAction → Option (List Char)
  | .write i w => some (['W', ' '] ++ Nat.toDigits 10 i ++ [' '] ++ hex16 w)
  | .read i => some (['R', ' '] ++ Nat.toDigits 10 i)
  | .launch w => some (['W', ' ', '3', ' '] ++ hex16 w)
  | .rst => none
  | .pause => none

/-- A script's encoding: the list of its port requests (R78). -/
def encoding (script : List Line) : List (List Char) := (actions script).filterMap requestText

end Sys2Proof.Machine.Script
end

