-- ==== Sys2Proof/Safety.lean ====
section
/-! DEFINITION. What counts as a safe state, in the terms claims use: the invariants of rules R28 and R29 and what goes with them
while a command runs, the ranges of rule R100, and the views of a state that claims compare. -/

namespace Sys2Proof.Machine

/-- `n` steps of the machine, ending early only at a stop (there is none). -/
def steps : Nat → State → Host.Outcome State Fault Refusal
  | 0, s => .next s
  | n + 1, s =>
    match step s with
    | .next t => steps n t
    | .fault r => .fault r
    | .refused r => .refused r

/-- The nine values STATUS can take (R29). -/
def statusValues : List Word :=
  [0x00#64, 0x01#64, 0x05#64, 0x09#64, 0x13#64, 0x23#64, 0x33#64, 0x43#64, 0x53#64]

/-- The state invariants of R28, items (a) to (f), which hold at every moment the host can observe. -/
abbrev State.Observable (s : State) : Prop :=
  statusReserved s.status = 0#56 ∧
  (statusErr s.status = false → statusErrcode s.status = 0#4) ∧
  (statusErr s.status = true → 1 ≤ (statusErrcode s.status).toNat ∧ (statusErrcode s.status).toNat ≤ 5) ∧
  (statusErr s.status = true → statusPrime s.status = false ∧ statusCoprime s.status = false ∧
    s.res0 = 0#64 ∧ s.res1 = 0#64 ∧ s.res2 = 0#64) ∧
  (statusPrime s.status = true → statusCoprime s.status = false ∧
    s.res0 = 1#64 ∧ s.res1 = 0#64 ∧ s.res2 = 0#64) ∧
  (statusDone s.status = false →
    s.cmd = 0#64 ∧ s.status = 0#64 ∧ s.res0 = 0#64 ∧ s.res1 = 0#64 ∧ s.res2 = 0#64) ∧
  (statusCoprime s.status = true →
    (opField s.cmd = 3 ∧ s.res0 = 1#64) ∨ ((opField s.cmd = 4 ∨ opField s.cmd = 5) ∧ s.res2 = 1#64))

/-- The working values belong to the command whose word stands in CMD (R33, R34). -/
def Work.runs : Work → Word → Bool
  | .start d, w => d == decode w
  | .modpow _ _, w => w == encode .modpow
  | .gcd _ _, w => w == encode .gcd
  | .xgcd _, w => w == encode .xgcd
  | .modinv _, w => w == encode .modinv
  | .fermat _, w => w == encode .fermat
  | .fermatGcd _ _ _, w => w == encode .fermat
  | .fermatPow _ _ _, w => w == encode .fermat

/-- What holds while a command runs: what acceptance wrote still stands (R92), the operands are the registers' (R24), and the
working values are the command's. -/
abbrev State.Running (s : State) (e : Engine) : Prop :=
  (s.status = 0#64 ∨ s.status = 1#64) ∧ s.res0 = 0#64 ∧ s.res1 = 0#64 ∧ s.res2 = 0#64 ∧
  e.operands = s.sample ∧ e.work.runs s.cmd = true

/-- The invariant of the machine: R28 in IDLE, `Running` in RUN. -/
def State.Inv (s : State) : Prop :=
  match s.phase with
  | .idle => s.Observable
  | .run e => s.Running e

/-- STATUS has one of its nine values (R29); in RUN one of the two that acceptance leaves. -/
def State.StatusListed (s : State) : Prop :=
  match s.phase with
  | .idle => s.status ∈ statusValues
  | .run _ => s.status = 0#64 ∨ s.status = 1#64

/-- The sampled operands lie in I64. -/
def Operands.inRange (o : Operands) : Bool := inI64 o.a && inI64 o.b && inI64 o.c

/-- The working values of the Euclidean loop lie in I64. -/
def EuclidVals.inRange (v : EuclidVals) : Bool :=
  inI64 v.r0 && inI64 v.r1 && inI64 v.s0 && inI64 v.s1 && inI64 v.t0 && inI64 v.t1 && 0 ≤ v.r0 && 0 ≤ v.r1

/-- The working values lie in I64 (R100), a bit index below 63 (R109) and a witness at most WITNESS_LIMIT (R150). -/
def Work.inRange : Work → Bool
  | .start _ => true
  | .modpow acc i => inI64 acc && i ≤ 62
  | .gcd a b => inI64 a && inI64 b
  | .xgcd v => v.inRange
  | .modinv v => v.inRange
  | .fermat a => a ≤ Config.witnessLimit
  | .fermatGcd a x y => a < Config.witnessLimit && inI64 x && inI64 y
  | .fermatPow a acc i => a < Config.witnessLimit && inI64 acc && i ≤ 62

/-- Every arithmetic value the engine holds between two iterations lies in I64 (R100). -/
def State.ValuesInRange (s : State) : Prop :=
  match s.phase with
  | .idle => True
  | .run e => e.operands.inRange = true ∧ e.work.inRange = true

/-- Two states agree on the eight registers and the phase, the block's own state (R20). -/
def State.SameBlock (s t : State) : Prop :=
  s.opa = t.opa ∧ s.opb = t.opb ∧ s.opc = t.opc ∧ s.cmd = t.cmd ∧ s.status = t.status ∧
  s.res0 = t.res0 ∧ s.res1 = t.res1 ∧ s.res2 = t.res2 ∧ s.phase = t.phase

/-- An action that arrives through the port and is held in RUN (R91): not the reset input, not the model's `pause`. -/
def HostAction.isAccess : HostAction → Bool
  | .read _ => true
  | .write _ _ => true
  | .launch _ => true
  | .rst => false
  | .pause => false

/-- No reset and no `pause` waits at the head of the script. -/
def State.headIsAccess (script : List HostAction) : Bool :=
  match script with
  | [] => true
  | a :: _ => a.isAccess

/-- `w` is a violating witness for `n`: coprime to `n`, and its power `n - 1` is not congruent to 1 (R150). -/
abbrev fermatViolation (n : Int) (w : Nat) : Prop :=
  Int.gcd (w : Int) n = 1 ∧ ¬n ∣ (w : Int) ^ (n.toNat - 1) - 1

/-- A fault-free completion with the results `r0`, `r1`, `r2` as integers and the two flags (R94): the results are exact, ERR and
ERRCODE are 0, DONE is set and the engine is idle. -/
structure State.Completed (t : State) (r0 r1 r2 : Int) (prime coprime : Bool) : Prop where
  res0 : toInt t.res0 = r0
  res1 : toInt t.res1 = r1
  res2 : toInt t.res2 = r2
  done : statusDone t.status = true
  err : statusErr t.status = false
  errcode : statusErrcode t.status = 0#4
  prime : statusPrime t.status = prime
  coprime : statusCoprime t.status = coprime
  idle : t.phase = .idle

/-- A faulted completion (R95): the code is recorded, the results, PRIME and COPRIME are 0, DONE is set and the engine is idle. -/
structure State.Faulted (t : State) (f : CommandFault) : Prop where
  res0 : t.res0 = 0#64
  res1 : t.res1 = 0#64
  res2 : t.res2 = 0#64
  done : statusDone t.status = true
  err : statusErr t.status = true
  errcode : statusErrcode t.status = f.code
  prime : statusPrime t.status = false
  coprime : statusCoprime t.status = false
  idle : t.phase = .idle

/-- What no command changes (R22, R27, R90): the operand registers, CMD, the reserved bits of STATUS; and the host's side. -/
structure State.Frame (s t : State) : Prop where
  opa : t.opa = s.opa
  opb : t.opb = s.opb
  opc : t.opc = s.opc
  cmd : t.cmd = s.cmd
  reserved : statusReserved t.status = statusReserved s.status
  script : t.script = s.script
  transcript : t.transcript = s.transcript

end Sys2Proof.Machine
end

