-- ==== Sys2Proof/Certificates/Slice0/Obligations.lean ====
section
/-! DEFINITION. The statements about the machine, one definition each, in the order of the spec's files. OBLIGATIONS.json says which
rule each formalises. -/

open Sys2Proof Sys2Proof.Machine

/-! ## Numbers (file 00) -/

/-- R11: `to_int(w) = w[62:0] − 2^63·w[63]`. -/
def Obligations.ToIntIsTwosComplement : Prop :=
  ∀ w : Word, toInt w = ((w.toNat % 2 ^ 63 : Nat) : Int) - 2 ^ 63 * (if w.getLsbD 63 then 1 else 0)

/-- R11: `2^(bitlen(v)−1) ≤ v < 2^bitlen(v)` for `v ≥ 1`, and the bits of `v` from the top one down rebuild `v`. -/
def Obligations.ExponentBitsRebuildTheExponent : Prop :=
  ∀ v : Nat, 1 ≤ v → 2 ^ (bitlen v - 1) ≤ v ∧ v < 2 ^ bitlen v ∧
    v = ((List.range (bitlen v)).map fun i => bit v i * 2 ^ i).sum

/-! ## State, reset and invariants (files 10 and 70) -/

/-- R37: every register 0, every field of STATUS 0, PHASE IDLE. -/
def Obligations.ResetStateIsAllZero : Prop :=
  State.reset.opa = 0#64 ∧ State.reset.opb = 0#64 ∧ State.reset.opc = 0#64 ∧ State.reset.cmd = 0#64 ∧
  State.reset.status = 0#64 ∧ State.reset.res0 = 0#64 ∧ State.reset.res1 = 0#64 ∧ State.reset.res2 = 0#64 ∧
  State.reset.phase = .idle

/-- The three invariants below hold after reset, and DONE = 0 there tells it from a completed NOP (R28, R29, R38). -/
def Obligations.ResetStateMeetsTheInvariants : Prop :=
  State.reset.Inv ∧ State.reset.Observable ∧ State.reset.StatusListed ∧ State.reset.ValuesInRange ∧
  statusDone State.reset.status = false ∧
  ∃ t, exec .nop State.reset = .next t ∧ statusDone t.status = true

/-- R28, with what holds in RUN (model's choice, log entry 2): every step keeps the invariant, and whenever the host can observe
the state items (a) to (f) hold. -/
def Obligations.EveryStepKeepsTheStateInvariant : Prop :=
  ∀ s t : State, s.Inv → step s = .next t → t.Inv ∧ (t.phase = .idle → t.Observable)

/-- R29: STATUS takes nine values and no other, whatever step is made from a state where it has one. -/
def Obligations.EveryStepKeepsStatusAmongNineValues : Prop :=
  ∀ s t : State, s.StatusListed → step s = .next t → t.StatusListed

/-- R100: every value the engine holds between two iterations stays in I64, a bit index at most 62, a witness at most
WITNESS_LIMIT. -/
def Obligations.EveryStepKeepsWorkingValuesInI64 : Prop :=
  ∀ s t : State, s.ValuesInRange → step s = .next t → t.ValuesInRange

/-- R22: an operand register changes only by a host write to it or by reset. -/
def Obligations.OperandRegistersChangeByHostWritesOnly : Prop :=
  ∀ s t : State, step s = .next t →
    (t.opa ≠ s.opa → ∃ rest, s.script = .rst :: rest ∨ s.script = .write 0 t.opa :: rest) ∧
    (t.opb ≠ s.opb → ∃ rest, s.script = .rst :: rest ∨ s.script = .write 1 t.opb :: rest) ∧
    (t.opc ≠ s.opc → ∃ rest, s.script = .rst :: rest ∨ s.script = .write 2 t.opc :: rest)

/-- R210 and R211: reset, in IDLE or in RUN, leaves the reset state; the host's script goes on and nothing is answered. -/
def Obligations.ResetLeavesTheResetStateFromAnyPhase : Prop :=
  ∀ (s : State) (rest : List HostAction), s.script = .rst :: rest →
    ∃ t, step s = .next t ∧ t.SameBlock State.reset ∧ t.script = rest ∧ t.transcript = s.transcript

/-- R211: a reset that arrives `k` steps into a command leaves what a reset after the command's completion leaves; if the command was
still running, its CMD write gets no response. -/
def Obligations.ResetDuringACommandIsResetAfterIt : Prop :=
  ∀ (s : State) (w : Word) (k : Nat) (rest : List HostAction), s.phase = .idle →
    s.script = .launch w :: (List.replicate k .pause ++ .rst :: rest) →
    ∃ r t u, steps (k + 1) s = .next r ∧ step r = .next t ∧
      steps 2 { s with script := .write 3 w :: .rst :: rest } = .next u ∧
      t.SameBlock u ∧ t.SameBlock State.reset ∧ t.script = rest ∧
      (r.busy = true → t.transcript = s.transcript)

/-- R214: what each command does on the all-zero operands reset leaves. -/
def Obligations.CommandsOnResetOperands : Prop :=
  ∀ s : State, s.opa = 0#64 → s.opb = 0#64 → s.opc = 0#64 →
    (∃ t, exec .nop s = .next t ∧ t.Completed 0 0 0 false false) ∧
    (∃ t, exec .emod s = .next t ∧ t.Faulted .divideByZero) ∧
    (∃ t, exec .modpow s = .next t ∧ t.Faulted .exponentRange) ∧
    (∃ t, exec .gcd s = .next t ∧ t.Completed 0 0 0 false false) ∧
    (∃ t, exec .xgcd s = .next t ∧ t.Completed 1 0 0 false false) ∧
    (∃ t, exec .modinv s = .next t ∧ t.Completed 1 0 0 false false) ∧
    (∃ t, exec .fermat s = .next t ∧ t.Faulted .exponentRange)

/-! ## The port (file 20) -/

/-- R53: a read returns the register's pattern or faults above index 7, and changes nothing of the block. -/
def Obligations.ReadReturnsTheRegister : Prop :=
  ∀ (s : State) (i : Nat) (rest : List HostAction), s.phase = .idle → s.script = .read i :: rest →
    ∃ t, step s = .next t ∧ s.SameBlock t ∧ t.script = rest ∧
      (∀ r : Reg, i = r.index → t.transcript = .data (s.reg r) :: s.transcript) ∧
      (8 ≤ i → t.transcript = .fault i :: s.transcript)

/-- R54: a write replaces an operand register and nothing else, or stores the pattern in CMD and runs the command to its end before
it is answered, or faults. -/
def Obligations.WriteDoesWhatItsIndexSays : Prop :=
  ∀ (s : State) (i : Nat) (w : Word) (rest : List HostAction), s.phase = .idle → s.script = .write i w :: rest →
    (i = 0 → step s = .next { s with opa := w, script := rest, transcript := .ok :: s.transcript }) ∧
    (i = 1 → step s = .next { s with opb := w, script := rest, transcript := .ok :: s.transcript }) ∧
    (i = 2 → step s = .next { s with opc := w, script := rest, transcript := .ok :: s.transcript }) ∧
    (i = 3 → ∀ c, decode w = .command c →
      ∃ t, exec c { s with cmd := w, script := rest } = .next t ∧
        step s = .next { t with transcript := .ok :: s.transcript }) ∧
    (i = 3 → ∀ why, decode w = .illegal why →
      ∃ t, step s = .next { t with transcript := .ok :: s.transcript } ∧ t.Faulted .illegalCommand ∧
        State.Frame { s with cmd := w, script := rest } t) ∧
    (4 ≤ i → step s = .next { s with script := rest, transcript := .fault i :: s.transcript })

/-- R55 and R184: an access fault is answered on the port and changes no state; STATUS is untouched. -/
def Obligations.AccessFaultChangesNoState : Prop :=
  ∀ (s : State) (a : HostAction) (i : Nat) (rest : List HostAction), s.phase = .idle → s.script = a :: rest →
    (a = .read i ∧ 8 ≤ i ∨ ∃ w, a = .write i w ∧ 4 ≤ i) →
    ∃ t, step s = .next t ∧ s.SameBlock t ∧ t.script = rest ∧ t.transcript = .fault i :: s.transcript

/-- R25: a read of CMD returns the last pattern written, legal or not. -/
def Obligations.CommandWordReadsBack : Prop :=
  ∀ (s : State) (w : Word) (rest : List HostAction), s.phase = .idle →
    s.script = .write 3 w :: .read 3 :: rest →
    ∃ t, steps 2 s = .next t ∧ t.cmd = w ∧ t.transcript = .data w :: .ok :: s.transcript

/-! ## Encoding (file 30) -/

/-- R71: the opcode map, word by word; opcodes 7 to 15 name nothing. -/
def Obligations.OpcodeMapWordsDecode : Prop :=
  decode 0x0000000000000000#64 = .command .nop ∧
  decode 0x0000000000000001#64 = .command .emod ∧
  decode 0x0000000000000002#64 = .command .modpow ∧
  decode 0x0000000000000003#64 = .command .gcd ∧
  decode 0x0000000000000004#64 = .command .xgcd ∧
  decode 0x0000000000000005#64 = .command .modinv ∧
  decode 0x0000000000000006#64 = .command .fermat ∧
  ∀ k < 16, 7 ≤ k → decode (BitVec.ofNat 64 k) = .illegal .reservedOpcode

/-- R73: the decoder is total, rejects a word with a bit above 3 set or with opcode 7 to 15, and is inverse to the encoder: a pattern
decodes to a command exactly when it is that command's word. -/
def Obligations.DecodeAndEncodeAgree : Prop :=
  ∀ w : Word, (∀ i, decode w = .command i ↔ w = encode i) ∧
    (w >>> 4 ≠ 0#64 → ∃ why, decode w = .illegal why) ∧
    (w >>> 4 = 0#64 → 7 ≤ (w &&& 0xF#64).toNat → ∃ why, decode w = .illegal why)

/-- R72: which words are illegal, and the name each is rejected by (the names are the model's). -/
def Obligations.IllegalWordsAreNamed : Prop :=
  ∀ w : Word, (decode w = .illegal .zeroField ↔ zeroFieldClear w = false) ∧
    (decode w = .illegal .reservedOpcode ↔ zeroFieldClear w = true ∧ opcodeDefined w = false) ∧
    (commandWordLegal w = true ↔ ∃ i, decode w = .command i)

/-- R72: an illegal command word is accepted as a command that does nothing but fault: CMD holds it, the results are 0 and STATUS is
0x13. The premise on the reserved bits is item (a) of R28. -/
def Obligations.IllegalCommandWordOnlyFaults : Prop :=
  ∀ (s : State) (w : Word) (rest : List HostAction), s.phase = .idle → s.script = .write 3 w :: rest →
    commandWordLegal w = false → statusReserved s.status = 0#56 →
    step s = .next { s with
      cmd := w, status := 0x13#64, res0 := 0#64, res1 := 0#64, res2 := 0#64
      script := rest, transcript := .ok :: s.transcript }

/-- R75: a command that does not use an operand register ignores its content: NOP reads none, FERMAT only OPA, EMOD and the
Euclidean commands OPA and OPB, MODPOW all three. -/
def Obligations.CommandIgnoresOperandsItDoesNotRead : Prop :=
  ∀ (i : Instr) (s s' t t' : State), exec i s = .next t → exec i s' = .next t' →
    (i ≠ .nop → s.opa = s'.opa) → (i ≠ .nop → i ≠ .fermat → s.opb = s'.opb) → (i = .modpow → s.opc = s'.opc) →
    t.res0 = t'.res0 ∧ t.res1 = t'.res1 ∧ t.res2 = t'.res2 ∧
    statusErr t.status = statusErr t'.status ∧ statusErrcode t.status = statusErrcode t'.status ∧
    statusPrime t.status = statusPrime t'.status ∧ statusCoprime t.status = statusCoprime t'.status

/-- R77: the pseudo-instruction `modpow base, exp, mod` is three operand writes and the command. -/
def Obligations.ModpowPseudoInstructionRuns : Prop :=
  ∀ (s : State) (b e m : Int) (rest : List HostAction), s.phase = .idle →
    s.script = Script.actions (Script.modpow (.int b) (.int e) (.int m)) ++ rest →
    ∃ t, exec .modpow { s with
        opa := toBits b, opb := toBits e, opc := toBits m, cmd := encode .modpow, script := rest } = .next t ∧
      steps 4 s = .next { t with transcript := .ok :: .ok :: .ok :: .ok :: s.transcript }

/-! ## The lifecycle (file 40) and faults (file 60) -/

/-- R54, R90: when the host writes a word that decodes to a command, the step is `exec` of that command on the state with the word in
CMD, and then the response `ok`. -/
def Obligations.StepRunsTheDecodedCommand : Prop :=
  ∀ (s : State) (w : Word) (i : Instr) (rest : List HostAction), s.phase = .idle →
    s.script = .write 3 w :: rest → decode w = .command i →
    ∃ t, exec i { s with cmd := w, script := rest } = .next t ∧
      step s = .next { t with transcript := .ok :: t.transcript }

/-- The model's own `withFetchWord` (log entry 7): the very next step runs the command whose word is placed. -/
def Obligations.StepRunsThePlacedCommand : Prop :=
  ∀ (s : State) (i : Instr), decodeTableWord 64 (encode i).toNat = some i ∧
    ∃ t, exec i { s with cmd := encode i, phase := .idle } = .next t ∧
      step (s.withFetchWord 64 (encode i).toNat) = .next { t with transcript := .ok :: t.transcript }

/-- R92: at acceptance, for every word, the operands are sampled, ERR, ERRCODE, PRIME and COPRIME cleared and the results set to 0,
while DONE stays. Shown on the model's stepwise reading (log entry 2). -/
def Obligations.AcceptanceSamplesAndClears : Prop :=
  ∀ (s : State) (w : Word) (rest : List HostAction), s.phase = .idle → s.script = .launch w :: rest →
    ∃ t, step s = .next t ∧
      t.phase = .run ⟨⟨toInt s.opa, toInt s.opb, toInt s.opc⟩, .start (decode w)⟩ ∧
      t.opa = s.opa ∧ t.opb = s.opb ∧ t.opc = s.opc ∧ t.cmd = w ∧
      t.res0 = 0#64 ∧ t.res1 = 0#64 ∧ t.res2 = 0#64 ∧
      statusDone t.status = statusDone s.status ∧ statusErr t.status = false ∧ statusErrcode t.status = 0#4 ∧
      statusPrime t.status = false ∧ statusCoprime t.status = false ∧
      t.script = rest ∧ t.transcript = s.transcript

/-- R91: in RUN an access that is presented is held; the engine moves alone, the registers stand still until completion, and only
then the CMD write is answered. -/
def Obligations.AccessIsHeldWhileRunning : Prop :=
  ∀ (s : State) (e : Engine), s.phase = .run e → State.headIsAccess s.script = true →
    ∃ t, step s = .next t ∧ t.script = s.script ∧
      t.opa = s.opa ∧ t.opb = s.opb ∧ t.opc = s.opc ∧ t.cmd = s.cmd ∧
      (t.busy = true → t.status = s.status ∧ t.res0 = s.res0 ∧ t.res1 = s.res1 ∧ t.res2 = s.res2 ∧
        t.transcript = s.transcript) ∧
      (t.busy = false → statusDone t.status = true ∧ t.transcript = .ok :: s.transcript)

/-- R96: the stepwise reading reaches the IDLE state of the atomic one, for every command word. -/
def Obligations.StepwiseCommandReachesTheAtomicState : Prop :=
  ∀ (s : State) (w : Word) (rest : List HostAction), s.phase = .idle → s.script = .launch w :: rest →
    State.headIsAccess rest = true →
    ∃ n t, steps n s = .next t ∧ step { s with script := .write 3 w :: rest } = .next t ∧ t.phase = .idle

/-- R90, R22: what no command changes, whatever it comes to. -/
def Obligations.EveryCommandKeepsItsFrame : Prop :=
  ∀ (i : Instr) (s t : State), exec i s = .next t →
    s.Frame t ∧ statusDone t.status = true ∧ t.phase = .idle

/-- R94, R95, R187: every command completes with results or records exactly one fault and zero results. -/
def Obligations.EveryCommandCompletesOrRecordsItsFault : Prop :=
  ∀ (i : Instr) (s : State), ∃ t, exec i s = .next t ∧ s.Frame t ∧
    ((∃ r0 r1 r2 p c, t.Completed r0 r1 r2 p c) ∨ ∃ f, f ≠ .illegalCommand ∧ t.Faulted f)

/-- R191: nothing is stuck; every state has a next one. -/
def Obligations.EveryStepGoesOn : Prop := ∀ s : State, ∃ t, step s = .next t

/-- R98: the block's state after a CMD write is a function of the word and the sampled operands, of nothing else. The premise on the
reserved bits is item (a) of R28. -/
def Obligations.CommandIsAFunctionOfItsOperands : Prop :=
  ∀ (w : Word) (s s' : State), s.opa = s'.opa → s.opb = s'.opb → s.opc = s'.opc →
    statusReserved s.status = 0#56 → statusReserved s'.status = 0#56 →
    ∃ t t', commandWrite w s = .next t ∧ commandWrite w s' = .next t' ∧ t.SameBlock t'

/-- R58: two writes of the same command word with unchanged operands leave the same final state as one. -/
def Obligations.SameCommandTwiceLeavesTheSameState : Prop :=
  ∀ (w : Word) (s t : State), commandWrite w s = .next t → commandWrite w t = .next t

/-- R27: PRIME is FERMAT's alone and says RES0 = 1; COPRIME belongs to GCD, XGCD and MODINV and says g = 1; NOP never faults. -/
def Obligations.FlagsEachCommandSets : Prop :=
  ∀ (i : Instr) (s t : State), exec i s = .next t →
    (i = .nop → statusErr t.status = false) ∧
    (statusPrime t.status = true ↔ i = .fermat ∧ statusErr t.status = false ∧ t.res0 = 1#64) ∧
    (statusCoprime t.status = true ↔ statusErr t.status = false ∧
      (i = .gcd ∧ t.res0 = 1#64 ∨ (i = .xgcd ∨ i = .modinv) ∧ t.res2 = 1#64))

/-- R182: which command can raise which fault, and on which operands. -/
def Obligations.FaultsEachCommandCanRaise : Prop :=
  ∀ (i : Instr) (s t : State) (f : CommandFault), exec i s = .next t → t.Faulted f →
    match i with
    | .nop => False
    | .emod => f = .divideByZero ∧ toInt s.opb = 0
    | .modpow =>
      (f = .exponentRange ∧ toInt s.opb < 1) ∨
      (f = .divideByZero ∧ 2 ≤ toInt s.opb ∧ toInt s.opc = 0 ∧ inI64 (toInt s.opa * toInt s.opa) = true) ∨
      (f = .overflow ∧ 2 ≤ toInt s.opb ∧
        ¬(1 ≤ |toInt s.opc| ∧ |toInt s.opc| ≤ 3037000500 ∧ |toInt s.opa| ≤ 3037000499))
    | .gcd => f = .operandRange ∧ (toInt s.opa < 0 ∨ toInt s.opb < 0)
    | .xgcd => f = .operandRange ∧ (toInt s.opa < 0 ∨ toInt s.opb < 0)
    | .modinv => f = .operandRange ∧ (toInt s.opa < 0 ∨ toInt s.opb < 0)
    | .fermat =>
      (f = .exponentRange ∧ (toInt s.opa = 0 ∨ toInt s.opa = 1)) ∨
      (f = .operandRange ∧ toInt s.opa < 0) ∨
      (f = .overflow ∧ 3037000500 < toInt s.opa)

/-- R97: NOP clears ERR, ERRCODE, PRIME and COPRIME, sets the results to 0 and DONE, and changes nothing else. -/
def Obligations.NopClearsAndCompletes : Prop :=
  ∀ s : State, ∃ t, exec .nop s = .next t ∧ s.Frame t ∧ t.Completed 0 0 0 false false

/-! ## Modular arithmetic (file 41) -/

/-- R103: `chk`. -/
def Obligations.ChkIsTheRangeCheck : Prop :=
  ∀ v : Int, (-9223372036854775808 ≤ v ∧ v ≤ 9223372036854775807 → chk v = .ok v) ∧
    (v < -9223372036854775808 ∨ 9223372036854775807 < v → chk v = .error .overflow)

/-- R105: `emod(a, b)` faults for `b = 0`; otherwise it is `a − b * floor(a / b)`, and the unique integer that differs from `a` by a
multiple of `b` and lies between 0 and `b` with the sign of `b`. -/
def Obligations.EmodIsTheUniqueSignFollowingRemainder : Prop :=
  ∀ a b : Int, (b = 0 → emod a b = .error .divideByZero) ∧
    (b ≠ 0 → emod a b = .ok (a - b * ⌊(a : ℚ) / (b : ℚ)⌋) ∧
      ∀ r : Int, emod a b = .ok r ↔
        (b ∣ a - r ∧ (0 < b → 0 ≤ r ∧ r < b) ∧ (b < 0 → b < r ∧ r ≤ 0)))

/-- R106: the laws of `emod` for `b ≠ 0`, items (a) to (f). -/
def Obligations.EmodLaws : Prop :=
  ∀ a b : Int, b ≠ 0 → ∃ r, emod a b = .ok r ∧
    |r| ≤ |b| - 1 ∧
    (r = 0 ↔ b ∣ a) ∧
    emod r b = .ok r ∧
    (∀ k : Int, emod (a + k * b) b = .ok r) ∧
    (∀ y : Int, emod (a * y) b = emod (r * y) b) ∧
    (b = 1 ∨ b = -1 → r = 0) ∧
    r = (if a.tmod b ≠ 0 ∧ (a.tmod b < 0 ↔ 0 < b) then a.tmod b + b else a.tmod b)

/-- R107: EMOD leaves in RES0 the remainder of OPA by OPB with the sign of OPB, and faults when OPB = 0. -/
def Obligations.EmodCommandLeavesTheRemainder : Prop :=
  ∀ s : State,
    (toInt s.opb ≠ 0 → ∃ t r, exec .emod s = .next t ∧ s.Frame t ∧ t.Completed r 0 0 false false ∧
      toInt s.opb ∣ toInt s.opa - r ∧ (0 < toInt s.opb → 0 ≤ r ∧ r < toInt s.opb) ∧
      (toInt s.opb < 0 → toInt s.opb < r ∧ r ≤ 0)) ∧
    (toInt s.opb = 0 → ∃ t, exec .emod s = .next t ∧ s.Frame t ∧ t.Faulted .divideByZero)

/-- R108, R109: the loop computes what the recursion does, value for value and fault for fault. -/
def Obligations.ModpowLoopEqualsItsRecursion : Prop :=
  ∀ base e m : Int, modpow base e m = modpowRec base e m

/-- R110 (a), (b): a fault-free MODPOW leaves the base itself for exponent 1, otherwise the residue of the exact power. -/
def Obligations.FaultFreeModpowIsTheResidueOfThePower : Prop :=
  ∀ s t : State, exec .modpow s = .next t → statusErr t.status = false →
    1 ≤ toInt s.opb ∧
    (toInt s.opb = 1 → t.Completed (toInt s.opa) 0 0 false false) ∧
    (2 ≤ toInt s.opb → toInt s.opc ≠ 0 ∧
      t.Completed ((toInt s.opa ^ (toInt s.opb).toNat).fmod (toInt s.opc)) 0 0 false false)

/-- R104, R111: with 1 ≤ |modulus| ≤ 3037000500, |base| ≤ 3037000499 and an exponent of at least 1, MODPOW completes; 3037000499 is
the largest magnitude whose square lies in I64. -/
def Obligations.ModpowCompletesInTheOverflowFreeRange : Prop :=
  (∀ x : Int, |x| ≤ 3037000499 ↔ inI64 (x * x) = true) ∧
  ∀ s : State, 1 ≤ toInt s.opb → 1 ≤ |toInt s.opc| → |toInt s.opc| ≤ 3037000500 →
    |toInt s.opa| ≤ 3037000499 →
    ∃ t, exec .modpow s = .next t ∧ s.Frame t ∧
      t.Completed (if toInt s.opb = 1 then toInt s.opa
        else (toInt s.opa ^ (toInt s.opb).toNat).fmod (toInt s.opc)) 0 0 false false

/-- R110 (a): with exponent 1 MODPOW returns the base unreduced, for every modulus, 0 and negative ones included. -/
def Obligations.ModpowExponentOneReturnsTheBase : Prop :=
  ∀ s : State, toInt s.opb = 1 →
    ∃ t, exec .modpow s = .next t ∧ s.Frame t ∧ t.Completed (toInt s.opa) 0 0 false false ∧ t.res0 = s.opa

/-- R111, R185: MODPOW's faults in their order: the exponent first, then the range of the first square, then the modulus. -/
def Obligations.ModpowFaultsInTheirOrder : Prop :=
  ∀ s : State,
    (toInt s.opb < 1 → ∃ t, exec .modpow s = .next t ∧ s.Frame t ∧ t.Faulted .exponentRange) ∧
    (2 ≤ toInt s.opb → 3037000499 < |toInt s.opa| →
      ∃ t, exec .modpow s = .next t ∧ s.Frame t ∧ t.Faulted .overflow) ∧
    (2 ≤ toInt s.opb → |toInt s.opa| ≤ 3037000499 → toInt s.opc = 0 →
      ∃ t, exec .modpow s = .next t ∧ s.Frame t ∧ t.Faulted .divideByZero)

/-- R99: MODPOW runs at most 62 iterations; with acceptance, the exponent test and completion, 65 steps of the model's stepwise
reading (log entry 2). -/
def Obligations.ModpowCompletesWithinSixtyTwoIterations : Prop :=
  ∀ (s : State) (rest : List HostAction), s.phase = .idle → s.script = .launch (encode .modpow) :: rest →
    State.headIsAccess rest = true →
    ∃ n t, 2 ≤ n ∧ n ≤ 65 ∧ steps n s = .next t ∧ t.phase = .idle ∧ t.transcript = .ok :: s.transcript

/-- File 95, S2 (the source's round-trip property): for an RSA triple with distinct primes and n at most 3037000500, MODPOW by e and
then MODPOW of RES0 by d gives every x in [0, n) back. -/
def Obligations.ModpowRoundTripsAnRsaTriple : Prop :=
  ∀ (s : State) (p q : Nat) (d : Int), p.Prime → q.Prime → p ≠ q → toInt s.opc = p * q → p * q ≤ 3037000500 →
    0 ≤ toInt s.opa → toInt s.opa < p * q → 1 ≤ toInt s.opb → 1 ≤ d → inI64 d = true →
    ((p : Int) - 1) * ((q : Int) - 1) ∣ toInt s.opb * d - 1 →
    ∃ t u, exec .modpow s = .next t ∧ exec .modpow { t with opa := t.res0, opb := toBits d } = .next u ∧
      u.Completed (toInt s.opa) 0 0 false false

/-- R116: GCD of two non-negative operands leaves their greatest common divisor, and COPRIME says whether it is 1; a negative
operand is its only fault. -/
def Obligations.GcdCommandLeavesTheGcd : Prop :=
  ∀ s : State,
    (0 ≤ toInt s.opa → 0 ≤ toInt s.opb → ∃ t, exec .gcd s = .next t ∧ s.Frame t ∧
      t.Completed (Int.gcd (toInt s.opa) (toInt s.opb)) 0 0 false
        (decide (Int.gcd (toInt s.opa) (toInt s.opb) = 1))) ∧
    (toInt s.opa < 0 ∨ toInt s.opb < 0 → ∃ t, exec .gcd s = .next t ∧ s.Frame t ∧ t.Faulted .operandRange)

/-- R225: GCD runs at most 91 iterations on operands in I64; with acceptance, the sign test and completion, 94 steps of the model's
stepwise reading (log entry 2). -/
def Obligations.GcdCompletesWithinNinetyOneIterations : Prop :=
  ∀ (s : State) (rest : List HostAction), s.phase = .idle → s.script = .launch (encode .gcd) :: rest →
    State.headIsAccess rest = true →
    ∃ n t, 2 ≤ n ∧ n ≤ 94 ∧ steps n s = .next t ∧ t.phase = .idle ∧ t.transcript = .ok :: s.transcript

/-! ## The extended Euclidean commands (file 42) -/

/-- R131, R133, R136: a negative operand of XGCD or MODINV faults before any arithmetic. -/
def Obligations.XgcdAndModinvFaultOnNegativeOperands : Prop :=
  ∀ (i : Instr) (s : State), i = .xgcd ∨ i = .modinv → toInt s.opa < 0 ∨ toInt s.opb < 0 →
    ∃ t, exec i s = .next t ∧ s.Frame t ∧ t.Faulted .operandRange

/-- R132 (a), (b), (i), R133: XGCD never overflows on non-negative operands and leaves Bezout coefficients and the greatest common
divisor. -/
def Obligations.XgcdCommandLeavesBezoutCoefficients : Prop :=
  ∀ s : State, 0 ≤ toInt s.opa → 0 ≤ toInt s.opb →
    ∃ t x y, exec .xgcd s = .next t ∧ s.Frame t ∧
      t.Completed x y (Int.gcd (toInt s.opa) (toInt s.opb)) false
        (decide (Int.gcd (toInt s.opa) (toInt s.opb) = 1)) ∧
      toInt s.opa * x + toInt s.opb * y = Int.gcd (toInt s.opa) (toInt s.opb)

/-- R132 (c) to (h): which coefficients. -/
def Obligations.XgcdCoefficientsInSpecialCases : Prop :=
  ∀ a b : Int, inI64 a = true → inI64 b = true → 0 ≤ a → 0 ≤ b → ∃ v, xgcd a b = .ok v ∧
    (b = 0 → v.s0 = 1 ∧ v.t0 = 0 ∧ v.r0 = a) ∧
    (a = 0 → 0 < b → v.s0 = 0 ∧ v.t0 = 1 ∧ v.r0 = b) ∧
    (a < b → xgcdIter (.start a b) = .ok ⟨b, a, 0, 1, 1, 0⟩) ∧
    (0 < b → b ∣ a → v.s0 = 0 ∧ v.t0 = 1 ∧ v.r0 = b) ∧
    (a ≠ b → ∃ u, xgcd b a = .ok u ∧ u.s0 = v.t0 ∧ u.t0 = v.s0 ∧ u.r0 = v.r0) ∧
    (0 < b → ∃ u, xgcd (a.fmod b) b = .ok u ∧ u.s0 = v.s0 ∧ u.r0 = v.r0)

/-- R135: MODINV leaves XGCD's s, with the modulus added once if it is negative, beside XGCD's g; no test that g = 1 is made. -/
def Obligations.ModinvNormalisesTheCoefficientOfXgcd : Prop :=
  ∀ s : State, 0 ≤ toInt s.opa → 0 ≤ toInt s.opb →
    ∃ t u, exec .modinv s = .next t ∧ exec .xgcd s = .next u ∧ s.Frame t ∧
      t.Completed (if 0 ≤ toInt u.res0 then toInt u.res0 else toInt u.res0 + toInt s.opb) 0 (toInt u.res2)
        false (statusCoprime u.status)

/-- R137 (a), (b): for a modulus of at least 1 the result lies in [0, m − 1] and a·d is congruent to the gcd. -/
def Obligations.ModinvLeavesAResidue : Prop :=
  ∀ s : State, 0 ≤ toInt s.opa → 1 ≤ toInt s.opb →
    ∃ t d, exec .modinv s = .next t ∧ s.Frame t ∧
      t.Completed d 0 (Int.gcd (toInt s.opa) (toInt s.opb)) false
        (decide (Int.gcd (toInt s.opa) (toInt s.opb) = 1)) ∧
      0 ≤ d ∧ d ≤ toInt s.opb - 1 ∧
      toInt s.opb ∣ toInt s.opa * d - Int.gcd (toInt s.opa) (toInt s.opb)

/-- R137 (c): with gcd 1 and a modulus of at least 2 the result is the unique inverse in [1, m − 1]. -/
def Obligations.ModinvInvertsACoprimeOperand : Prop :=
  ∀ s : State, 0 ≤ toInt s.opa → 2 ≤ toInt s.opb → Int.gcd (toInt s.opa) (toInt s.opb) = 1 →
    ∃ t d, exec .modinv s = .next t ∧ s.Frame t ∧ t.Completed d 0 1 false true ∧
      0 < d ∧ d < toInt s.opb ∧ emod (toInt s.opa * d) (toInt s.opb) = .ok 1 ∧
      ∀ d', 0 < d' → d' < toInt s.opb → emod (toInt s.opa * d') (toInt s.opb) = .ok 1 → d' = d

/-- R137 (e) to (h): the degenerate operands of MODINV, and an operand at or above the modulus. -/
def Obligations.ModinvOnDegenerateOperands : Prop :=
  ∀ s : State, 0 ≤ toInt s.opa →
    (toInt s.opb = 1 → ∃ t, exec .modinv s = .next t ∧ s.Frame t ∧ t.Completed 0 0 1 false true) ∧
    (toInt s.opb = 0 → ∃ t, exec .modinv s = .next t ∧ s.Frame t ∧
      t.Completed 1 0 (toInt s.opa) false (decide (toInt s.opa = 1))) ∧
    (toInt s.opa = 0 → 0 < toInt s.opb → ∃ t, exec .modinv s = .next t ∧ s.Frame t ∧
      t.Completed 0 0 (toInt s.opb) false (decide (toInt s.opb = 1))) ∧
    (0 < toInt s.opb → ∃ t u, exec .modinv s = .next t ∧
      exec .modinv { s with opa := toBits ((toInt s.opa).fmod (toInt s.opb)) } = .next u ∧
      t.res0 = u.res0 ∧ t.res1 = u.res1 ∧ t.res2 = u.res2 ∧ t.status = u.status)

/-! ## The Fermat tester (file 43) -/

/-- R150, R152, R154 (c): for 2 ≤ n ≤ 3037000500 FERMAT does not fault; it declares n prime when no witness below 1000000 violates,
and otherwise composite with the smallest violating witness. -/
def Obligations.FermatCommandGivesTheVerdict : Prop :=
  ∀ s : State, 2 ≤ toInt s.opa → toInt s.opa ≤ 3037000500 →
    ∃ t, exec .fermat s = .next t ∧ s.Frame t ∧
      (((∀ w : Nat, 1 ≤ w → w < 1000000 → ¬fermatViolation (toInt s.opa) w) ∧ t.Completed 1 0 0 true false) ∨
      (∃ w : Nat, 1 ≤ w ∧ w < 1000000 ∧ fermatViolation (toInt s.opa) w ∧
        (∀ v : Nat, 1 ≤ v → v < w → ¬fermatViolation (toInt s.opa) v) ∧ t.Completed 0 w 0 false false))

/-- R150, R151 (a), R154 (c): FERMAT on every n ≥ 2, those above 3037000500 included. The witnesses are tried in ascending order; the
first that violates gives the composite verdict, the first coprime one whose power overflows gives Overflow, whichever is first, and
with neither n is declared prime. -/
def Obligations.FermatOutcomeOnEveryOperandFromTwo : Prop :=
  ∀ s : State, 2 ≤ toInt s.opa →
    let n := toInt s.opa
    let overflows : Nat → Prop := fun w => Int.gcd w n = 1 ∧ modpow w (n - 1) n = .error .overflow
    let passes : Nat → Prop := fun w => ¬overflows w ∧ ¬fermatViolation n w
    ∃ t, exec .fermat s = .next t ∧ s.Frame t ∧
      (((∀ w : Nat, 1 ≤ w → w < 1000000 → passes w) ∧ t.Completed 1 0 0 true false) ∨
      (∃ w : Nat, 1 ≤ w ∧ w < 1000000 ∧ (∀ v : Nat, 1 ≤ v → v < w → passes v) ∧
        ((¬overflows w ∧ fermatViolation n w ∧ t.Completed 0 w 0 false false) ∨
         (overflows w ∧ t.Faulted .overflow))))

/-- R154 (c), (d): FERMAT declares every prime up to 3037000500 prime. -/
def Obligations.FermatDeclaresPrimesPrime : Prop :=
  ∀ s : State, (toInt s.opa).toNat.Prime → toInt s.opa ≤ 3037000500 →
    ∃ t, exec .fermat s = .next t ∧ s.Frame t ∧ t.Completed 1 0 0 true false

/-- R153: FERMAT on a negative operand, on 0 and on 1. -/
def Obligations.FermatFaultsBelowTwo : Prop :=
  ∀ s : State,
    (toInt s.opa < 0 → ∃ t, exec .fermat s = .next t ∧ s.Frame t ∧ t.Faulted .operandRange) ∧
    (toInt s.opa = 0 ∨ toInt s.opa = 1 → ∃ t, exec .fermat s = .next t ∧ s.Frame t ∧ t.Faulted .exponentRange)

/-- R154 (b): for n ≥ 2 the scan may stop at min(n, WITNESS_LIMIT), and a reported witness is below n. -/
def Obligations.FermatScanNeedsOnlyWitnessesBelowN : Prop :=
  ∀ n : Int, 2 ≤ n → fermat n = fermatScan n (min n.toNat Config.witnessLimit - 1) 1 ∧
    ∀ w, fermat n = .ok (0, w) → w < n
end

