-- ==== Sys2Proof/Laws/Arith.lean ====
section
/-! SUPPORT. The number operations, each said once: the two readings of a pattern, `chk`, `emod`, and the unfolding of each loop by
one iteration. -/

namespace Sys2Proof.Machine

/-! Patterns and integers -/

theorem inI64_iff (v : Int) : inI64 v = true ↔ -2 ^ 63 ≤ v ∧ v < 2 ^ 63 := by
  rw [inI64, Bool.and_eq_true]
  have lo : Config.i64Min = -2 ^ 63 := by decide
  have hi : Config.i64Max = 2 ^ 63 - 1 := by decide
  rw [lo, hi]
  constructor
  · rintro ⟨h, h'⟩
    exact ⟨of_decide_eq_true h, by have := of_decide_eq_true h'; omega⟩
  · rintro ⟨h, h'⟩
    exact ⟨decide_eq_true h, decide_eq_true (by omega)⟩

theorem inI64_toInt (w : Word) : inI64 (toInt w) = true := by
  rw [inI64_iff]
  have h := BitVec.toInt_lt (x := w)
  have h' := BitVec.le_toInt (x := w)
  simp only [toInt]
  omega

theorem toInt_toBits {v : Int} (h : inI64 v = true) : toInt (toBits v) = v := by
  rw [inI64_iff] at h
  simp only [toInt, toBits, BitVec.toInt_ofInt]
  exact Int.bmod_eq_of_le (by omega) (by omega)

theorem toBits_toInt (w : Word) : toBits (toInt w) = w := BitVec.ofInt_toInt

@[simp] theorem toBits_zero : toBits 0 = 0#64 := by decide
@[simp] theorem toBits_one : toBits 1 = 1#64 := by decide
@[simp] theorem toInt_zero : toInt 0#64 = 0 := by decide
@[simp] theorem toInt_one : toInt 1#64 = 1 := by decide

/-! Faults pass through a sequence of operations -/

theorem bind_eq_ok {α β : Type} {x : Except CommandFault α} {k : α → Except CommandFault β} {v : β} :
    (x >>= k) = .ok v ↔ ∃ a, x = .ok a ∧ k a = .ok v := by
  cases x <;> simp [bind, Except.bind]

theorem bind_eq_error {α β : Type} {x : Except CommandFault α} {k : α → Except CommandFault β} {f : CommandFault} :
    (x >>= k) = .error f ↔ x = .error f ∨ ∃ a, x = .ok a ∧ k a = .error f := by
  cases x <;> simp [bind, Except.bind]

@[simp] theorem bind_ok {α β : Type} (a : α) (k : α → Except CommandFault β) : (Except.ok a >>= k) = k a := rfl
@[simp] theorem bind_error {α β : Type} (f : CommandFault) (k : α → Except CommandFault β) :
    ((Except.error f : Except CommandFault α) >>= k) = .error f := rfl

/-! `chk` (R103) -/

theorem chk_eq_ok_iff {v r : Int} : chk v = .ok r ↔ inI64 v = true ∧ r = v := by
  unfold chk
  cases h : inI64 v with
  | true => rw [if_pos rfl]; exact ⟨fun e => ⟨rfl, (Except.ok.inj e).symm⟩, fun e => e.2 ▸ rfl⟩
  | false => rw [if_neg Bool.false_ne_true]; exact ⟨nofun, nofun⟩

theorem chk_eq_error_iff {v : Int} {f : CommandFault} :
    chk v = .error f ↔ inI64 v = false ∧ f = .overflow := by
  unfold chk
  cases h : inI64 v with
  | true => rw [if_pos rfl]; exact ⟨nofun, nofun⟩
  | false =>
    rw [if_neg Bool.false_ne_true]
    exact ⟨fun e => ⟨rfl, (Except.error.inj e).symm⟩, fun e => e.2 ▸ rfl⟩

theorem chk_of_inI64 {v : Int} (h : inI64 v = true) : chk v = .ok v := chk_eq_ok_iff.2 ⟨h, rfl⟩

/-! `emod` (R105) -/

@[simp] theorem emod_zero (a : Int) : emod a 0 = .error .divideByZero := rfl

/-- `emod` is the floored remainder wherever it does not fault. -/
theorem emod_of_ne {b : Int} (a : Int) (h : b ≠ 0) : emod a b = .ok (a.fmod b) := by
  rw [emod, if_neg h, Int.fmod_def]

theorem emod_eq_ok_iff {a b r : Int} : emod a b = .ok r ↔ b ≠ 0 ∧ r = a.fmod b := by
  by_cases h : b = 0
  · simp [h]
  · simp [emod_of_ne a h, h, eq_comm]

theorem emod_eq_error_iff {a b : Int} {f : CommandFault} :
    emod a b = .error f ↔ b = 0 ∧ f = .divideByZero := by
  by_cases h : b = 0
  · simp [h, eq_comm]
  · simp [emod_of_ne a h, h]

/-! The loops, one iteration at a time -/

@[simp] theorem modpowLoop_zero (base : Int) (e : Nat) (m acc : Int) : modpowLoop base e m 0 acc = .ok acc := rfl
theorem modpowLoop_succ (base : Int) (e : Nat) (m : Int) (i : Nat) (acc : Int) :
    modpowLoop base e m (i + 1) acc = modpowIter base e m i acc >>= modpowLoop base e m i := rfl

/-- What one iteration of `modpow` can leave: the square reduced, times the base and reduced again if the bit is 1. -/
theorem modpowIter_eq_ok_iff {base m acc r : Int} {e i : Nat} :
    modpowIter base e m i acc = .ok r ↔
      inI64 (acc * acc) = true ∧ m ≠ 0 ∧
      (if bit e i = 1 then
        inI64 ((acc * acc).fmod m * base) = true ∧ r = ((acc * acc).fmod m * base).fmod m
      else r = (acc * acc).fmod m) := by
  unfold modpowIter
  rw [bind_eq_ok]
  constructor
  · rintro ⟨_, h1, h⟩
    obtain ⟨k1, rfl⟩ := chk_eq_ok_iff.1 h1
    obtain ⟨_, h2, h⟩ := bind_eq_ok.1 h
    obtain ⟨hm, rfl⟩ := emod_eq_ok_iff.1 h2
    refine ⟨k1, hm, ?_⟩
    split at h <;> rename_i hb
    · obtain ⟨_, h3, h⟩ := bind_eq_ok.1 h
      obtain ⟨k3, rfl⟩ := chk_eq_ok_iff.1 h3
      rw [if_pos hb]
      exact ⟨k3, (emod_eq_ok_iff.1 h).2⟩
    · rw [if_neg hb]
      exact (Except.ok.inj h).symm
  · rintro ⟨h1, hm, h⟩
    refine ⟨_, chk_of_inI64 h1, bind_eq_ok.2 ⟨_, emod_of_ne _ hm, ?_⟩⟩
    split at h <;> rename_i hb
    · rw [if_pos hb, h.2]
      exact bind_eq_ok.2 ⟨_, chk_of_inI64 h.1, emod_of_ne _ hm⟩
    · rw [if_neg hb, h]
      rfl

theorem gcdLoop_succ_of_ne {b : Int} (fuel : Nat) (a : Int) (h : b ≠ 0) :
    gcdLoop (fuel + 1) a b = gcdLoop fuel b (a.fmod b) := by
  simp [gcdLoop, h, emod_of_ne]

@[simp] theorem gcdLoop_done (fuel : Nat) (a : Int) : gcdLoop fuel a 0 = .ok a := by
  cases fuel <;> simp [gcdLoop]

/-- What one iteration of `xgcd` can leave (R130). -/
theorem xgcdIter_eq_ok_iff {v w : EuclidVals} :
    xgcdIter v = .ok w ↔
      inI64 (v.r0.fdiv v.r1 * v.s1) = true ∧ inI64 (v.s0 - v.r0.fdiv v.r1 * v.s1) = true ∧
      inI64 (v.r0.fdiv v.r1 * v.t1) = true ∧ inI64 (v.t0 - v.r0.fdiv v.r1 * v.t1) = true ∧
      w = ⟨v.r1, v.r0 - v.r0.fdiv v.r1 * v.r1, v.s1, v.s0 - v.r0.fdiv v.r1 * v.s1, v.t1,
        v.t0 - v.r0.fdiv v.r1 * v.t1⟩ := by
  simp only [xgcdIter, bind_eq_ok, chk_eq_ok_iff]
  constructor
  · rintro ⟨_, ⟨h1, rfl⟩, _, ⟨h2, rfl⟩, _, ⟨h3, rfl⟩, _, ⟨h4, rfl⟩, h⟩
    exact ⟨h1, h2, h3, h4, (Except.ok.inj h).symm⟩
  · rintro ⟨h1, h2, h3, h4, rfl⟩
    exact ⟨_, ⟨h1, rfl⟩, _, ⟨h2, rfl⟩, _, ⟨h3, rfl⟩, _, ⟨h4, rfl⟩, rfl⟩

theorem xgcdLoop_succ_of_ne {v : EuclidVals} (fuel : Nat) (h : v.r1 ≠ 0) :
    xgcdLoop (fuel + 1) v = xgcdIter v >>= xgcdLoop fuel := by
  rw [xgcdLoop, if_neg h]

@[simp] theorem xgcdLoop_done {v : EuclidVals} (fuel : Nat) (h : v.r1 = 0) : xgcdLoop fuel v = .ok v := by
  cases fuel <;> simp [xgcdLoop, h]

/-- Normalisation leaves a residue of `s`, and never faults for `m ≥ 0` (R135). -/
theorem normalise_of_nonneg {s : Int} (m : Int) (h : 0 ≤ s) : normalise s m = .ok s := if_pos h

theorem normalise_of_neg {s m : Int} (h : s < 0) (hm : inI64 (s + m) = true) : normalise s m = .ok (s + m) := by
  rw [normalise, if_neg (by omega), chk_of_inI64 hm]

end Sys2Proof.Machine
end

