-- ==== Sys2Proof/Laws/State.lean ====
section
/-! SUPPORT. One lemma per field per update of State: what each shared operation leaves in each field. -/

namespace Sys2Proof.Machine

/-! `State.accept` -/

@[simp] theorem State.accept_opa (s : State) : (s.accept).opa = s.opa := rfl
@[simp] theorem State.accept_opb (s : State) : (s.accept).opb = s.opb := rfl
@[simp] theorem State.accept_opc (s : State) : (s.accept).opc = s.opc := rfl
@[simp] theorem State.accept_cmd (s : State) : (s.accept).cmd = s.cmd := rfl
@[simp] theorem State.accept_status (s : State) : (s.accept).status = statusAccept s.status := rfl
@[simp] theorem State.accept_res0 (s : State) : (s.accept).res0 = 0#64 := rfl
@[simp] theorem State.accept_res1 (s : State) : (s.accept).res1 = 0#64 := rfl
@[simp] theorem State.accept_res2 (s : State) : (s.accept).res2 = 0#64 := rfl
@[simp] theorem State.accept_phase (s : State) : (s.accept).phase = s.phase := rfl
@[simp] theorem State.accept_script (s : State) : (s.accept).script = s.script := rfl
@[simp] theorem State.accept_transcript (s : State) : (s.accept).transcript = s.transcript := rfl

/-! `State.complete` -/

@[simp] theorem State.complete_opa (r : Results) (s : State) : (s.complete r).opa = s.opa := rfl
@[simp] theorem State.complete_opb (r : Results) (s : State) : (s.complete r).opb = s.opb := rfl
@[simp] theorem State.complete_opc (r : Results) (s : State) : (s.complete r).opc = s.opc := rfl
@[simp] theorem State.complete_cmd (r : Results) (s : State) : (s.complete r).cmd = s.cmd := rfl
@[simp] theorem State.complete_status (r : Results) (s : State) : (s.complete r).status = statusComplete s.status r.prime r.coprime := rfl
@[simp] theorem State.complete_res0 (r : Results) (s : State) : (s.complete r).res0 = toBits r.r0 := rfl
@[simp] theorem State.complete_res1 (r : Results) (s : State) : (s.complete r).res1 = toBits r.r1 := rfl
@[simp] theorem State.complete_res2 (r : Results) (s : State) : (s.complete r).res2 = toBits r.r2 := rfl
@[simp] theorem State.complete_phase (r : Results) (s : State) : (s.complete r).phase = .idle := rfl
@[simp] theorem State.complete_script (r : Results) (s : State) : (s.complete r).script = s.script := rfl
@[simp] theorem State.complete_transcript (r : Results) (s : State) : (s.complete r).transcript = s.transcript := rfl

/-! `State.takeFault` -/

@[simp] theorem State.takeFault_opa (f : CommandFault) (s : State) : (s.takeFault f).opa = s.opa := rfl
@[simp] theorem State.takeFault_opb (f : CommandFault) (s : State) : (s.takeFault f).opb = s.opb := rfl
@[simp] theorem State.takeFault_opc (f : CommandFault) (s : State) : (s.takeFault f).opc = s.opc := rfl
@[simp] theorem State.takeFault_cmd (f : CommandFault) (s : State) : (s.takeFault f).cmd = s.cmd := rfl
@[simp] theorem State.takeFault_status (f : CommandFault) (s : State) : (s.takeFault f).status = statusFault s.status f := rfl
@[simp] theorem State.takeFault_res0 (f : CommandFault) (s : State) : (s.takeFault f).res0 = s.res0 := rfl
@[simp] theorem State.takeFault_res1 (f : CommandFault) (s : State) : (s.takeFault f).res1 = s.res1 := rfl
@[simp] theorem State.takeFault_res2 (f : CommandFault) (s : State) : (s.takeFault f).res2 = s.res2 := rfl
@[simp] theorem State.takeFault_phase (f : CommandFault) (s : State) : (s.takeFault f).phase = .idle := rfl
@[simp] theorem State.takeFault_script (f : CommandFault) (s : State) : (s.takeFault f).script = s.script := rfl
@[simp] theorem State.takeFault_transcript (f : CommandFault) (s : State) : (s.takeFault f).transcript = s.transcript := rfl

/-! `State.respond` -/

@[simp] theorem State.respond_opa (r : Response) (s : State) : (s.respond r).opa = s.opa := rfl
@[simp] theorem State.respond_opb (r : Response) (s : State) : (s.respond r).opb = s.opb := rfl
@[simp] theorem State.respond_opc (r : Response) (s : State) : (s.respond r).opc = s.opc := rfl
@[simp] theorem State.respond_cmd (r : Response) (s : State) : (s.respond r).cmd = s.cmd := rfl
@[simp] theorem State.respond_status (r : Response) (s : State) : (s.respond r).status = s.status := rfl
@[simp] theorem State.respond_res0 (r : Response) (s : State) : (s.respond r).res0 = s.res0 := rfl
@[simp] theorem State.respond_res1 (r : Response) (s : State) : (s.respond r).res1 = s.res1 := rfl
@[simp] theorem State.respond_res2 (r : Response) (s : State) : (s.respond r).res2 = s.res2 := rfl
@[simp] theorem State.respond_phase (r : Response) (s : State) : (s.respond r).phase = s.phase := rfl
@[simp] theorem State.respond_script (r : Response) (s : State) : (s.respond r).script = s.script := rfl
@[simp] theorem State.respond_transcript (r : Response) (s : State) : (s.respond r).transcript = r :: s.transcript := rfl

/-! `State.resetBlock` -/

@[simp] theorem State.resetBlock_opa (s : State) : (s.resetBlock).opa = 0#64 := rfl
@[simp] theorem State.resetBlock_opb (s : State) : (s.resetBlock).opb = 0#64 := rfl
@[simp] theorem State.resetBlock_opc (s : State) : (s.resetBlock).opc = 0#64 := rfl
@[simp] theorem State.resetBlock_cmd (s : State) : (s.resetBlock).cmd = 0#64 := rfl
@[simp] theorem State.resetBlock_status (s : State) : (s.resetBlock).status = 0#64 := rfl
@[simp] theorem State.resetBlock_res0 (s : State) : (s.resetBlock).res0 = 0#64 := rfl
@[simp] theorem State.resetBlock_res1 (s : State) : (s.resetBlock).res1 = 0#64 := rfl
@[simp] theorem State.resetBlock_res2 (s : State) : (s.resetBlock).res2 = 0#64 := rfl
@[simp] theorem State.resetBlock_phase (s : State) : (s.resetBlock).phase = .idle := rfl
@[simp] theorem State.resetBlock_script (s : State) : (s.resetBlock).script = s.script := rfl
@[simp] theorem State.resetBlock_transcript (s : State) : (s.resetBlock).transcript = s.transcript := rfl

/-! `State.launch` -/

@[simp] theorem State.launch_opa (w : Word) (s : State) : (s.launch w).opa = s.opa := rfl
@[simp] theorem State.launch_opb (w : Word) (s : State) : (s.launch w).opb = s.opb := rfl
@[simp] theorem State.launch_opc (w : Word) (s : State) : (s.launch w).opc = s.opc := rfl
@[simp] theorem State.launch_cmd (w : Word) (s : State) : (s.launch w).cmd = s.cmd := rfl
@[simp] theorem State.launch_status (w : Word) (s : State) : (s.launch w).status = statusAccept s.status := rfl
@[simp] theorem State.launch_res0 (w : Word) (s : State) : (s.launch w).res0 = 0#64 := rfl
@[simp] theorem State.launch_res1 (w : Word) (s : State) : (s.launch w).res1 = 0#64 := rfl
@[simp] theorem State.launch_res2 (w : Word) (s : State) : (s.launch w).res2 = 0#64 := rfl
@[simp] theorem State.launch_phase (w : Word) (s : State) : (s.launch w).phase = .run ⟨s.sample, .start (decode w)⟩ := rfl
@[simp] theorem State.launch_script (w : Word) (s : State) : (s.launch w).script = s.script := rfl
@[simp] theorem State.launch_transcript (w : Word) (s : State) : (s.launch w).transcript = s.transcript := rfl

/-! `State.withFetchWord` -/

@[simp] theorem State.withFetchWord_opa (n w : Nat) (s : State) : (s.withFetchWord n w).opa = s.opa := rfl
@[simp] theorem State.withFetchWord_opb (n w : Nat) (s : State) : (s.withFetchWord n w).opb = s.opb := rfl
@[simp] theorem State.withFetchWord_opc (n w : Nat) (s : State) : (s.withFetchWord n w).opc = s.opc := rfl
@[simp] theorem State.withFetchWord_cmd (n w : Nat) (s : State) : (s.withFetchWord n w).cmd = s.cmd := rfl
@[simp] theorem State.withFetchWord_status (n w : Nat) (s : State) : (s.withFetchWord n w).status = s.status := rfl
@[simp] theorem State.withFetchWord_res0 (n w : Nat) (s : State) : (s.withFetchWord n w).res0 = s.res0 := rfl
@[simp] theorem State.withFetchWord_res1 (n w : Nat) (s : State) : (s.withFetchWord n w).res1 = s.res1 := rfl
@[simp] theorem State.withFetchWord_res2 (n w : Nat) (s : State) : (s.withFetchWord n w).res2 = s.res2 := rfl
@[simp] theorem State.withFetchWord_phase (n w : Nat) (s : State) : (s.withFetchWord n w).phase = .idle := rfl
@[simp] theorem State.withFetchWord_script (n w : Nat) (s : State) : (s.withFetchWord n w).script = .write 3 (tableWord n w) :: s.script := rfl
@[simp] theorem State.withFetchWord_transcript (n w : Nat) (s : State) : (s.withFetchWord n w).transcript = s.transcript := rfl

/-! `sample` reads the operand registers only. -/

@[simp] theorem State.sample_a (s : State) : s.sample.a = toInt s.opa := rfl
@[simp] theorem State.sample_b (s : State) : s.sample.b = toInt s.opb := rfl
@[simp] theorem State.sample_c (s : State) : s.sample.c = toInt s.opc := rfl

theorem State.sample_congr {s t : State} (ha : s.opa = t.opa) (hb : s.opb = t.opb) (hc : s.opc = t.opc) :
    s.sample = t.sample := by simp [State.sample, ha, hb, hc]

/-! `finish` is `complete` or `takeFault`. -/

@[simp] theorem State.finish_ok (r : Results) (s : State) : s.finish (.ok r) = s.complete r := rfl
@[simp] theorem State.finish_error (f : CommandFault) (s : State) : s.finish (.error f) = s.takeFault f := rfl

end Sys2Proof.Machine
end

