-- ==== Sys2Proof/Laws/Flags.lean ====
section
/-! SUPPORT. Every field of STATUS after every update of it. -/

namespace Sys2Proof.Machine

/-- A bit of STATUS after one flag is written. -/
theorem getLsbD_setFlag (w : Word) (i j : Nat) (b : Bool) (hi : i < 64) :
    (setFlag w i b).getLsbD j = if j = i then b else w.getLsbD j := by
  by_cases hj : j < 64
  · by_cases h : j = i
    · subst h; cases b <;> simp [setFlag, hj]
    · have hbit : (1#64 <<< i).getLsbD j = false := by
        simp only [BitVec.getLsbD_shiftLeft, BitVec.getLsbD_one]
        by_cases hij : j < i <;> simp [hij]
        omega
      cases b
      · simp only [setFlag, Bool.false_eq_true, if_false, BitVec.getLsbD_and, BitVec.getLsbD_not, hbit, hj, h]
        simp
      · simp only [setFlag, if_true, BitVec.getLsbD_or, hbit, h]
        simp
  · have hne : j ≠ i := by omega
    rw [if_neg hne, BitVec.getLsbD_of_ge _ j (by omega), BitVec.getLsbD_of_ge _ j (by omega)]

/-- A bit of STATUS after ERRCODE is written. -/
theorem getLsbD_setErrcode (w : Word) (c : BitVec 4) (j : Nat) :
    (setErrcode w c).getLsbD j = if 4 ≤ j ∧ j < 8 then c.getLsbD (j - 4) else w.getLsbD j := by
  have mask : ∀ k < 64, (0xF0#64).getLsbD k = decide (4 ≤ k ∧ k < 8) := by decide
  by_cases hj : j < 64
  · simp only [setErrcode, BitVec.getLsbD_or, BitVec.getLsbD_and, BitVec.getLsbD_not, BitVec.getLsbD_shiftLeft,
      BitVec.getLsbD_setWidth, mask j hj, hj]
    by_cases h4 : 4 ≤ j
    · by_cases h8 : j < 8
      · have : j - 4 < 64 := by omega
        simp [h4, h8, this, show ¬(j < 4) by omega]
      · have : c.getLsbD (j - 4) = false := BitVec.getLsbD_of_ge _ _ (by omega)
        simp [h8, this]
    · simp [h4, show j < 4 by omega]
  · have : ¬(4 ≤ j ∧ j < 8) := by omega
    rw [if_neg this, BitVec.getLsbD_of_ge _ j (by omega), BitVec.getLsbD_of_ge _ j (by omega)]

/-! `statusAccept` -/

@[simp] theorem statusDone_accept (w : Word) : statusDone (statusAccept w) = statusDone w := by
  simp only [statusDone, statusAccept, getLsbD_setFlag, getLsbD_setErrcode, Nat.reduceLT]
  simp
@[simp] theorem statusErr_accept (w : Word) : statusErr (statusAccept w) = false := by
  simp only [statusErr, statusAccept, getLsbD_setFlag, getLsbD_setErrcode, Nat.reduceLT]
  simp
@[simp] theorem statusPrime_accept (w : Word) : statusPrime (statusAccept w) = false := by
  simp only [statusPrime, statusAccept, getLsbD_setFlag, getLsbD_setErrcode, Nat.reduceLT]
  simp
@[simp] theorem statusCoprime_accept (w : Word) : statusCoprime (statusAccept w) = false := by
  simp only [statusCoprime, statusAccept, getLsbD_setFlag, getLsbD_setErrcode, Nat.reduceLT]
  simp
@[simp] theorem statusErrcode_accept (w : Word) : statusErrcode (statusAccept w) = 0#4 := by
  apply BitVec.eq_of_getLsbD_eq
  intro i hi
  have : ¬(4 + i = 3) ∧ ¬(4 + i = 2) ∧ 4 + i < 8 := by omega
  simp [statusErrcode, statusAccept, getLsbD_setFlag, getLsbD_setErrcode, this]
@[simp] theorem statusReserved_accept (w : Word) :
    statusReserved (statusAccept w) = statusReserved w := by
  apply BitVec.eq_of_getLsbD_eq
  intro i hi
  have : ¬(8 + i = 3) ∧ ¬(8 + i = 2) ∧ ¬(8 + i = 1) ∧ ¬(4 ≤ 8 + i ∧ 8 + i < 8) := by omega
  simp [statusReserved, statusAccept, getLsbD_setFlag, getLsbD_setErrcode, hi, this]

/-! `statusComplete` -/

@[simp] theorem statusDone_complete (w : Word) (p c : Bool) :
    statusDone (statusComplete w p c) = true := by
  simp only [statusDone, statusComplete, getLsbD_setFlag, Nat.reduceLT]
  simp
@[simp] theorem statusErr_complete (w : Word) (p c : Bool) :
    statusErr (statusComplete w p c) = statusErr w := by
  simp only [statusErr, statusComplete, getLsbD_setFlag, Nat.reduceLT]
  simp
@[simp] theorem statusPrime_complete (w : Word) (p c : Bool) :
    statusPrime (statusComplete w p c) = p := by
  simp only [statusPrime, statusComplete, getLsbD_setFlag, Nat.reduceLT]
  simp
@[simp] theorem statusCoprime_complete (w : Word) (p c : Bool) :
    statusCoprime (statusComplete w p c) = c := by
  simp only [statusCoprime, statusComplete, getLsbD_setFlag, Nat.reduceLT]
  simp
@[simp] theorem statusErrcode_complete (w : Word) (p c : Bool) :
    statusErrcode (statusComplete w p c) = statusErrcode w := by
  apply BitVec.eq_of_getLsbD_eq
  intro i hi
  have : ¬(4 + i = 0) ∧ ¬(4 + i = 2) ∧ ¬(4 + i = 3) := by omega
  simp [statusErrcode, statusComplete, getLsbD_setFlag, hi, this]
@[simp] theorem statusReserved_complete (w : Word) (p c : Bool) :
    statusReserved (statusComplete w p c) = statusReserved w := by
  apply BitVec.eq_of_getLsbD_eq
  intro i hi
  have : ¬(8 + i = 0) ∧ ¬(8 + i = 2) ∧ ¬(8 + i = 3) := by omega
  simp [statusReserved, statusComplete, getLsbD_setFlag, hi, this]

/-! `statusFault` -/

@[simp] theorem statusDone_fault (w : Word) (f : CommandFault) :
    statusDone (statusFault w f) = true := by
  simp only [statusDone, statusFault, getLsbD_setFlag, getLsbD_setErrcode, Nat.reduceLT]
  simp
@[simp] theorem statusErr_fault (w : Word) (f : CommandFault) :
    statusErr (statusFault w f) = true := by
  simp only [statusErr, statusFault, getLsbD_setFlag, getLsbD_setErrcode, Nat.reduceLT]
  simp
@[simp] theorem statusPrime_fault (w : Word) (f : CommandFault) :
    statusPrime (statusFault w f) = statusPrime w := by
  simp only [statusPrime, statusFault, getLsbD_setFlag, getLsbD_setErrcode, Nat.reduceLT]
  simp
@[simp] theorem statusCoprime_fault (w : Word) (f : CommandFault) :
    statusCoprime (statusFault w f) = statusCoprime w := by
  simp only [statusCoprime, statusFault, getLsbD_setFlag, getLsbD_setErrcode, Nat.reduceLT]
  simp
@[simp] theorem statusErrcode_fault (w : Word) (f : CommandFault) :
    statusErrcode (statusFault w f) = f.code := by
  apply BitVec.eq_of_getLsbD_eq
  intro i hi
  have : ¬(4 + i = 0) ∧ 4 + i < 8 := by omega
  simp [statusErrcode, statusFault, getLsbD_setFlag, getLsbD_setErrcode, hi, this]
@[simp] theorem statusReserved_fault (w : Word) (f : CommandFault) :
    statusReserved (statusFault w f) = statusReserved w := by
  apply BitVec.eq_of_getLsbD_eq
  intro i hi
  have : ¬(8 + i = 0) ∧ ¬(8 + i = 1) ∧ ¬(4 ≤ 8 + i ∧ 8 + i < 8) := by omega
  simp [statusReserved, statusFault, getLsbD_setFlag, getLsbD_setErrcode, hi, this]

/-- STATUS is its six fields: two patterns that agree on each are the same. -/
theorem status_ext {v w : Word} (hd : statusDone v = statusDone w) (he : statusErr v = statusErr w)
    (hp : statusPrime v = statusPrime w) (hc : statusCoprime v = statusCoprime w)
    (hx : statusErrcode v = statusErrcode w) (hr : statusReserved v = statusReserved w) : v = w := by
  apply BitVec.eq_of_getLsbD_eq
  intro i hi
  have hx' := fun j => congrArg (·.getLsbD j) hx
  have hr' := fun j => congrArg (·.getLsbD j) hr
  simp only [statusErrcode, statusReserved, BitVec.getLsbD_extractLsb'] at hx' hr'
  by_cases h8 : 8 ≤ i
  · have := hr' (i - 8)
    simpa [show i - 8 < 56 by omega, show 8 + (i - 8) = i by omega] using this
  · by_cases h4 : 4 ≤ i
    · have := hx' (i - 4)
      simpa [show i - 4 < 4 by omega, show 4 + (i - 4) = i by omega] using this
    · obtain rfl | rfl | rfl | rfl : i = 0 ∨ i = 1 ∨ i = 2 ∨ i = 3 := by omega
      · exact hd
      · exact he
      · exact hp
      · exact hc

/-- The codes of the five faults differ (R181). -/
theorem CommandFault.code_injective {f g : CommandFault} (h : f.code = g.code) : f = g := by
  cases f <;> cases g <;> first | rfl | (exfalso; revert h; decide)

end Sys2Proof.Machine
end

