-- ==== Sys2Proof/Laws/Exec.lean ====
section
/-! SUPPORT. What a command can do: every arm of `exec` is `State.execute` of its function; `execute` either completes with the
function's results or takes its fault, and changes nothing else. -/

namespace Sys2Proof.Machine

theorem exec_nop (s : State) : exec .nop s = .next (s.execute runNop) := rfl
theorem exec_emod (s : State) : exec .emod s = .next (s.execute runEmod) := rfl
theorem exec_modpow (s : State) : exec .modpow s = .next (s.execute runModpow) := rfl
theorem exec_gcd (s : State) : exec .gcd s = .next (s.execute runGcd) := rfl
theorem exec_xgcd (s : State) : exec .xgcd s = .next (s.execute runXgcd) := rfl
theorem exec_modinv (s : State) : exec .modinv s = .next (s.execute runModinv) := rfl
theorem exec_fermat (s : State) : exec .fermat s = .next (s.execute runFermat) := rfl

/-- Every command is the shared lifecycle around a function of the sampled operands. -/
theorem exec_is_execute (i : Instr) :
    ∃ run : Operands → Except CommandFault Results, ∀ s, exec i s = .next (s.execute run) := by
  cases i
  · exact ⟨_, exec_nop⟩
  · exact ⟨_, exec_emod⟩
  · exact ⟨_, exec_modpow⟩
  · exact ⟨_, exec_gcd⟩
  · exact ⟨_, exec_xgcd⟩
  · exact ⟨_, exec_modinv⟩
  · exact ⟨_, exec_fermat⟩

/-- The two ends of `execute` (R90). -/
theorem execute_cases (run : Operands → Except CommandFault Results) (s : State) :
    (∃ r, run s.sample = .ok r ∧ s.execute run = s.accept.complete r) ∨
    (∃ f, run s.sample = .error f ∧ s.execute run = s.accept.takeFault f) := by
  unfold State.execute
  cases h : run s.sample with
  | ok r => exact .inl ⟨r, rfl, rfl⟩
  | error f => exact .inr ⟨f, rfl, rfl⟩

theorem execute_of_ok {run : Operands → Except CommandFault Results} {s : State} {r : Results}
    (h : run s.sample = .ok r) : s.execute run = s.accept.complete r := by
  rw [State.execute, h, State.finish_ok]

theorem execute_of_error {run : Operands → Except CommandFault Results} {s : State} {f : CommandFault}
    (h : run s.sample = .error f) : s.execute run = s.accept.takeFault f := by
  rw [State.execute, h, State.finish_error]

/-- A function that ends with results in I64 completes with exactly those (R94). -/
theorem execute_completed {run : Operands → Except CommandFault Results} {s : State} {r : Results}
    (h : run s.sample = .ok r) (h0 : inI64 r.r0 = true) (h1 : inI64 r.r1 = true) (h2 : inI64 r.r2 = true) :
    (s.execute run).Completed r.r0 r.r1 r.r2 r.prime r.coprime := by
  rw [execute_of_ok h]
  constructor <;> simp [toInt_toBits, h0, h1, h2]

/-- A function that faults leaves exactly the record of the fault (R95, R187). -/
theorem execute_faulted {run : Operands → Except CommandFault Results} {s : State} {f : CommandFault}
    (h : run s.sample = .error f) : (s.execute run).Faulted f := by
  rw [execute_of_error h]
  constructor <;> simp

/-- What no command changes. -/
theorem execute_frame (run : Operands → Except CommandFault Results) (s : State) : s.Frame (s.execute run) := by
  rcases execute_cases run s with ⟨r, -, h⟩ | ⟨f, -, h⟩ <;> rw [h] <;> constructor <;> simp

/-! What each function packs. -/

theorem runEmod_eq_ok {o : Operands} {r : Results} (h : runEmod o = .ok r) :
    ∃ v, emod o.a o.b = .ok v ∧ r = ⟨v, 0, 0, false, false⟩ := by
  obtain ⟨v, hv, h⟩ := bind_eq_ok.1 h
  exact ⟨v, hv, (Except.ok.inj h).symm⟩

theorem runModpow_eq_ok {o : Operands} {r : Results} (h : runModpow o = .ok r) :
    ∃ v, modpow o.a o.b o.c = .ok v ∧ r = ⟨v, 0, 0, false, false⟩ := by
  obtain ⟨v, hv, h⟩ := bind_eq_ok.1 h
  exact ⟨v, hv, (Except.ok.inj h).symm⟩

theorem runGcd_eq_ok {o : Operands} {r : Results} (h : runGcd o = .ok r) :
    ∃ g, gcd o.a o.b = .ok g ∧ r = gcdResults g := by
  obtain ⟨v, hv, h⟩ := bind_eq_ok.1 h
  exact ⟨v, hv, (Except.ok.inj h).symm⟩

theorem runXgcd_eq_ok {o : Operands} {r : Results} (h : runXgcd o = .ok r) :
    ∃ v, xgcd o.a o.b = .ok v ∧ r = xgcdResults v := by
  obtain ⟨v, hv, h⟩ := bind_eq_ok.1 h
  exact ⟨v, hv, (Except.ok.inj h).symm⟩

theorem runModinv_eq_ok {o : Operands} {r : Results} (h : runModinv o = .ok r) :
    ∃ d g, modinv o.a o.b = .ok (d, g) ∧ r = modinvResults d g := by
  obtain ⟨v, hv, h⟩ := bind_eq_ok.1 h
  exact ⟨v.1, v.2, hv, (Except.ok.inj h).symm⟩

theorem runFermat_eq_ok {o : Operands} {r : Results} (h : runFermat o = .ok r) :
    ∃ v w, fermat o.a = .ok (v, w) ∧ r = fermatResults v w := by
  obtain ⟨v, hv, h⟩ := bind_eq_ok.1 h
  exact ⟨v.1, v.2, hv, (Except.ok.inj h).symm⟩

end Sys2Proof.Machine
end

