-- ==== Sys2Proof/Laws/PerInstr.lean ====
section
/-! SUPPORT. Facts about each command as syntax, one lemma per constructor of Instr. -/

namespace Sys2Proof.Laws.WordOf

/-- The command is well formed, its word is a legal command word, and the word stands for it (rules R71, R73). -/
def Statement (i : Instr) : Prop :=
  i.wellFormed = true ∧ commandWordLegal (encode i) = true ∧ decode (encode i) = .command i

theorem nop : Statement .nop := by unfold Statement; decide
theorem emod : Statement .emod := by unfold Statement; decide
theorem modpow : Statement .modpow := by unfold Statement; decide
theorem gcd : Statement .gcd := by unfold Statement; decide
theorem xgcd : Statement .xgcd := by unfold Statement; decide
theorem modinv : Statement .modinv := by unfold Statement; decide
theorem fermat : Statement .fermat := by unfold Statement; decide

end Sys2Proof.Laws.WordOf
end

