-- ==== Sys2Proof/Laws/Step.lean ====
section
/-! SUPPORT. What a step can do: one equation per host action, the engine's turn in RUN, and the inversion of the whole step. -/

namespace Sys2Proof.Machine

theorem step_idle {s : State} (h : s.phase = .idle) : step s = idleStep s := by rw [step, h]

theorem step_run {s : State} {e : Engine} (h : s.phase = .run e) : step s = .next (runStep e s) := by rw [step, h]

theorem step_idle_nil {s : State} (h : s.phase = .idle) (hs : s.script = []) : step s = .next s := by
  rw [step_idle h, idleStep, hs]

theorem step_idle_cons {s : State} {a : HostAction} {rest : List HostAction} (h : s.phase = .idle)
    (hs : s.script = a :: rest) : step s = hostAct a { s with script := rest } := by
  rw [step_idle h, idleStep, hs]

/-- A command word that decodes runs its command, on a state that already holds the word in CMD (R54). -/
theorem commandWrite_of_decode {w : Word} {i : Instr} (h : decode w = .command i) (s : State) :
    commandWrite w s = exec i { s with cmd := w } := by rw [commandWrite, h]

theorem commandWrite_of_illegal {w : Word} {why : IllegalWord} (h : decode w = .illegal why) (s : State) :
    commandWrite w s = .next (State.executeIllegal { s with cmd := w }) := by rw [commandWrite, h]

/-- A write to CMD is always the shared lifecycle around some function of the operands, a function of the word alone. -/
theorem commandWrite_is_execute (w : Word) :
    ∃ run : Operands → Except CommandFault Results, ∀ s,
      commandWrite w s = .next (State.execute run { s with cmd := w }) := by
  cases h : decode w with
  | command i =>
    obtain ⟨run, hr⟩ := exec_is_execute i
    exact ⟨run, fun s => by rw [commandWrite_of_decode h, hr]⟩
  | illegal why => exact ⟨_, fun s => commandWrite_of_illegal h s⟩

theorem serveWrite_opa (w : Word) (s : State) :
    serveWrite 0 w s = .next (State.respond .ok { s with opa := w }) := rfl
theorem serveWrite_opb (w : Word) (s : State) :
    serveWrite 1 w s = .next (State.respond .ok { s with opb := w }) := rfl
theorem serveWrite_opc (w : Word) (s : State) :
    serveWrite 2 w s = .next (State.respond .ok { s with opc := w }) := rfl
theorem serveWrite_cmd (w : Word) (s : State) :
    serveWrite 3 w s = afterNext (State.respond .ok) (commandWrite w s) := rfl

theorem Reg.ofIndex?_ge {i : Nat} (h : 8 ≤ i) : Reg.ofIndex? i = none := by
  obtain ⟨k, rfl⟩ : ∃ k, i = k + 8 := ⟨i - 8, by omega⟩
  rfl

/-- Every index from 4 upwards refuses a write (R55). -/
theorem serveWrite_fault {i : Nat} (h : 4 ≤ i) (w : Word) (s : State) :
    serveWrite i w s = .next (s.respond (.fault i)) := by
  by_cases h8 : 8 ≤ i
  · simp only [serveWrite, regWrite, Reg.ofIndex?_ge h8]
  · obtain rfl | rfl | rfl | rfl : i = 4 ∨ i = 5 ∨ i = 6 ∨ i = 7 := by omega
    all_goals rfl

theorem serveRead_reg (r : Reg) (s : State) : serveRead r.index s = s.respond (.data (s.reg r)) := by
  cases r <;> rfl

theorem serveRead_fault {i : Nat} (h : 8 ≤ i) (s : State) : serveRead i s = s.respond (.fault i) := by
  simp only [serveRead, regRead, Reg.ofIndex?_ge h]

/-- Each index is a register's or is above 7 (R52). -/
theorem index_cases (i : Nat) : (∃ r : Reg, i = r.index) ∨ 8 ≤ i := by
  by_cases h : 8 ≤ i
  · exact .inr h
  · refine .inl ?_
    obtain rfl | rfl | rfl | rfl | rfl | rfl | rfl | rfl :
      i = 0 ∨ i = 1 ∨ i = 2 ∨ i = 3 ∨ i = 4 ∨ i = 5 ∨ i = 6 ∨ i = 7 := by omega
    exacts [⟨.opa, rfl⟩, ⟨.opb, rfl⟩, ⟨.opc, rfl⟩, ⟨.cmd, rfl⟩, ⟨.status, rfl⟩, ⟨.res0, rfl⟩, ⟨.res1, rfl⟩,
      ⟨.res2, rfl⟩]

/-- All a host action can do in IDLE. -/
theorem hostAct_cases {a : HostAction} {s : State} {out : Host.Outcome State Fault Refusal}
    (h : hostAct a s = out) :
    (∃ r, out = .next (s.respond r)) ∨
    (∃ w, a = .write 0 w ∧ out = .next (State.respond .ok { s with opa := w })) ∨
    (∃ w, a = .write 1 w ∧ out = .next (State.respond .ok { s with opb := w })) ∨
    (∃ w, a = .write 2 w ∧ out = .next (State.respond .ok { s with opc := w })) ∨
    (∃ w, a = .write 3 w ∧ out = afterNext (State.respond .ok) (commandWrite w s)) ∨
    (a = .rst ∧ out = .next s.resetBlock) ∨
    (∃ w, a = .launch w ∧ out = .next (State.launch w { s with cmd := w })) ∨
    (a = .pause ∧ out = .next s) := by
  subst h
  cases a with
  | read i =>
    refine .inl ?_
    rcases index_cases i with ⟨r, rfl⟩ | h
    · exact ⟨_, congrArg _ (serveRead_reg r s)⟩
    · exact ⟨_, congrArg _ (serveRead_fault h s)⟩
  | write i w =>
    by_cases h : 4 ≤ i
    · exact .inl ⟨_, serveWrite_fault h w s⟩
    · obtain rfl | rfl | rfl | rfl : i = 0 ∨ i = 1 ∨ i = 2 ∨ i = 3 := by omega
      · exact .inr (.inl ⟨w, rfl, rfl⟩)
      · exact .inr (.inr (.inl ⟨w, rfl, rfl⟩))
      · exact .inr (.inr (.inr (.inl ⟨w, rfl, rfl⟩)))
      · exact .inr (.inr (.inr (.inr (.inl ⟨w, rfl, rfl⟩))))
  | rst => exact .inr (.inr (.inr (.inr (.inr (.inl ⟨rfl, rfl⟩)))))
  | launch w => exact .inr (.inr (.inr (.inr (.inr (.inr (.inl ⟨w, rfl, rfl⟩))))))
  | pause => exact .inr (.inr (.inr (.inr (.inr (.inr (.inr ⟨rfl, rfl⟩))))))

/-- All a step in RUN can do: reset, or one turn of the engine on a state that differs at most in the script. -/
theorem runStep_cases (e : Engine) (s : State) :
    (∃ rest, s.script = .rst :: rest ∧ runStep e s = State.resetBlock { s with script := rest }) ∨
    (∃ rest, s.script = .pause :: rest ∧ runStep e s = State.engineStep e { s with script := rest }) ∨
    (State.headIsAccess s.script = true ∧ runStep e s = s.engineStep e) := by
  rcases hs : s.script with _ | ⟨a, rest⟩
  · exact .inr (.inr ⟨rfl, by rw [runStep, hs]⟩)
  · cases a with
    | rst => exact .inl ⟨rest, rfl, by rw [runStep, hs]⟩
    | pause => exact .inr (.inl ⟨rest, rfl, by rw [runStep, hs]⟩)
    | read i => exact .inr (.inr ⟨rfl, by rw [runStep, hs]⟩)
    | write i w => exact .inr (.inr ⟨rfl, by rw [runStep, hs]⟩)
    | launch w => exact .inr (.inr ⟨rfl, by rw [runStep, hs]⟩)

/-- The two ends of an engine step. -/
theorem engineStep_cases (e : Engine) (s : State) :
    (∃ w, turn e.operands e.work = .goOn w ∧
      s.engineStep e = { s with phase := .run { e with work := w } }) ∨
    (∃ out, turn e.operands e.work = .ended out ∧ s.engineStep e = (s.finish out).respond .ok) := by
  unfold State.engineStep
  cases h : turn e.operands e.work with
  | goOn w => exact .inl ⟨w, rfl, rfl⟩
  | ended out => exact .inr ⟨out, rfl, rfl⟩

/-! Several steps -/

@[simp] theorem steps_zero (s : State) : steps 0 s = .next s := rfl

theorem steps_succ {s t : State} (n : Nat) (h : step s = .next t) : steps (n + 1) s = steps n t := by
  rw [steps, h]

end Sys2Proof.Machine
end

