-- ==== Sys2Proof/Tests/Slice0.lean ====
section
/-! SUPPORT. The model's own tests. Every expected value stands in the spec: the place is named at each test. Then one theorem per
statement with hypotheses, which shows states and operands that meet them, clause by clause. -/

namespace Sys2Proof.Tests

open Sys2Proof.Machine

/-! ## Well-formedness: each check refuses an ill-formed term -/

theorem test_wellFormed_commands :
    ∀ i ∈ [Instr.nop, .emod, .modpow, .gcd, .xgcd, .modinv, .fermat], i.wellFormed = true := by decide
theorem test_zeroField_refuses : zeroFieldClear 0x0000000000000012#64 = false := by decide
theorem test_opcode_refuses_7 : opcodeDefined 0x0000000000000007#64 = false := by decide
theorem test_opcode_admits_6 : opcodeDefined 0x0000000000000006#64 = true := by decide
theorem test_commandWord_refuses_top_bit : commandWordLegal 0x8000000000000002#64 = false := by decide
theorem test_index_refuses_8 : indexDefined 8 = false ∧ indexDefined 7 = true := by decide
theorem test_indexWritable_refuses_status : indexWritable 4 = false ∧ indexWritable 3 = true := by decide
theorem test_value_refuses_out_of_I64 :
    Script.Value.wellFormed (.int 9223372036854775808) = false ∧
      Script.Value.wellFormed (.int (-9223372036854775808)) = true := by decide
/-- R76: `= <value>` stands on a `rd` line only. -/
theorem test_line_refuses_value_expected_of_wr :
    Script.Line.wellFormed (.wr (.named .opa) (.int 1) (.value (.int 1))) = false ∧
      Script.Line.wellFormed (.wr (.raw 4) (.hex 1#64) .fault) = true ∧
      Script.Line.wellFormed (.rd (.named .opa) (.value (.int 1))) = true := by decide

/-! ## Decoding: the words of R71 written out bit by bit; the illegal words of file 95, 2.1 -/

theorem test_decode_nop :
    decode 0b0000000000000000000000000000000000000000000000000000000000000000#64 = .command .nop := by decide
theorem test_decode_emod :
    decode 0b0000000000000000000000000000000000000000000000000000000000000001#64 = .command .emod := by decide
theorem test_decode_modpow :
    decode 0b0000000000000000000000000000000000000000000000000000000000000010#64 = .command .modpow := by decide
theorem test_decode_gcd :
    decode 0b0000000000000000000000000000000000000000000000000000000000000011#64 = .command .gcd := by decide
theorem test_decode_xgcd :
    decode 0b0000000000000000000000000000000000000000000000000000000000000100#64 = .command .xgcd := by decide
theorem test_decode_modinv :
    decode 0b0000000000000000000000000000000000000000000000000000000000000101#64 = .command .modinv := by decide
theorem test_decode_fermat :
    decode 0b0000000000000000000000000000000000000000000000000000000000000110#64 = .command .fermat := by decide
theorem test_decode_reserved :
    decode 0x0000000000000007#64 = .illegal .reservedOpcode ∧
      decode 0x000000000000000F#64 = .illegal .reservedOpcode := by decide
theorem test_decode_zeroField :
    decode 0x0000000000000012#64 = .illegal .zeroField ∧ decode 0x8000000000000002#64 = .illegal .zeroField ∧
      decode 0xFFFFFFFFFFFFFFFF#64 = .illegal .zeroField := by decide
theorem test_decodeTableWord :
    decodeTableWord 64 2 = some .modpow ∧ decodeTableWord 64 18 = none ∧ decodeTableWord 8 0x106 = some .fermat ∧
      decodeTableWord 72 (2 ^ 64) = none := by decide

/-! ## Commands -/

/-- The reset state with operands. -/
def regs (a b c : Int) : State := { State.reset with opa := toBits a, opb := toBits b, opc := toBits c }

/-- RES0, RES1, RES2 as integers and STATUS after a command. -/
def results (i : Instr) (s : State) : Option (Int × Int × Int × Word) :=
  match exec i s with
  | .next t => some (toInt t.res0, toInt t.res1, toInt t.res2, t.status)
  | .fault _ => none
  | .refused _ => none

/-- R97, worked example: after a fault NOP leaves STATUS = 0x01. -/
theorem test_nop_clears_fault :
    results .nop { State.reset with status := 0x33#64 } = some (0, 0, 0, 0x01#64) := by decide
/-- File 95, 2.1: NOP after XGCD clears its results. -/
theorem test_nop_clears_results :
    results .nop { State.reset with status := 0x09#64, res0 := 5#64, res2 := 1#64 } = some (0, 0, 0, 0x01#64) := by
  decide
/-- R106 (g). -/
theorem test_emod_negative_divisor : results .emod (regs 7 (-3) 0) = some (-2, 0, 0, 0x01#64) := by decide
/-- File 95, 2.3. -/
theorem test_emod_extremes :
    results .emod (regs (-9223372036854775808) 9223372036854775807 0) =
      some (9223372036854775806, 0, 0, 0x01#64) := by decide +kernel
/-- File 95, S1. -/
theorem test_modpow_textbook : results .modpow (regs 65 17 3233) = some (2790, 0, 0, 0x01#64) := by decide +kernel
/-- R112: the square is checked before the reduction is tried. -/
theorem test_modpow_overflow_first :
    results .modpow (regs 1099511627776 2 0) = some (0, 0, 0, 0x53#64) := by decide +kernel
/-- R116, worked example. -/
theorem test_gcd : results .gcd (regs 48 18 0) = some (6, 0, 0, 0x01#64) := by decide +kernel
/-- R116, worked example: the COPRIME flag. -/
theorem test_gcd_coprime : results .gcd (regs 17 3120 0) = some (1, 0, 0, 0x09#64) := by decide +kernel
/-- R133, worked example. -/
theorem test_xgcd : results .xgcd (regs 17 3120 0) = some (-367, 2, 1, 0x09#64) := by decide +kernel
/-- R134: the longest remainder sequence. -/
theorem test_xgcd_fibonacci :
    results .xgcd (regs 7540113804746346429 4660046610375530309 0) =
      some (1779979416004714189, -2880067194370816120, 1, 0x09#64) := by decide +kernel
/-- R136, worked example. -/
theorem test_modinv : results .modinv (regs 17 3120 0) = some (2753, 0, 1, 0x09#64) := by decide +kernel
/-- R138: not invertible is no fault. -/
theorem test_modinv_not_coprime : results .modinv (regs 48 18 0) = some (17, 0, 6, 0x01#64) := by decide +kernel
/-- R152, worked example. -/
theorem test_fermat_nine : results .fermat (regs 9 0 0) = some (0, 2, 0, 0x01#64) := by decide +kernel
/-- R153. -/
theorem test_fermat_negative : results .fermat (regs (-7) 0 0) = some (0, 0, 0, 0x43#64) := by decide +kernel

/-! ## The port, the step, the script notation -/

/-- The reset state with host actions to come. -/
def asked (l : List HostAction) : State := { State.reset with script := l }

/-- What one step changes, for the tests: STATUS, CMD and the latest response. -/
def seen (s : State) : Option (Word × Word × Option Response) :=
  match step s with
  | .next t => some (t.status, t.cmd, t.transcript.head?)
  | .fault _ => none
  | .refused _ => none

/-- File 95, 2.2: `R 9`. -/
theorem test_read_undefined : seen (asked [.read 9]) = some (0#64, 0#64, some (.fault 9)) := by decide
/-- File 95, 2.2: `W 4 v`. -/
theorem test_write_status : seen (asked [.write 4 7#64]) = some (0#64, 0#64, some (.fault 4)) := by decide
/-- File 95, P3: `wr CMD, 0x12`. -/
theorem test_write_illegal : seen (asked [.write 3 0x12#64]) = some (0x13#64, 0x12#64, some .ok) := by decide
/-- R214: FERMAT as the first command after reset. -/
theorem test_withFetchWord : seen (State.reset.withFetchWord 64 6) = some (0x33#64, 6#64, some .ok) := by
  decide +kernel
/-- R37: with nothing asked the reset state stays. -/
theorem test_nothing_asked : seen State.reset = some (0#64, 0#64, none) := by decide
/-- R78, the example's first and last line. -/
theorem test_script_encoding :
    (Script.encoding (Script.modpow (.int 65) (.int 17) (.int 3233))).head? =
      some ['W', ' ', '0', ' ', '0', '0', '0', '0', '0', '0', '0', '0', '0', '0', '0', '0', '0', '0', '4', '1'] ∧
    (Script.encoding (Script.modpow (.int 65) (.int 17) (.int 3233))).getLast? =
      some ['W', ' ', '3', ' ', '0', '0', '0', '0', '0', '0', '0', '0', '0', '0', '0', '0', '0', '0', '0', '2'] := by
  decide +kernel
/-- R78: a negative value is written in two's complement. -/
theorem test_script_negative : Script.hex16 (Script.Value.bits (.int (-7))) =
    ['F', 'F', 'F', 'F', 'F', 'F', 'F', 'F', 'F', 'F', 'F', 'F', 'F', 'F', 'F', '9'] := by decide +kernel
/-- R76: an expectation is met by the value read, and `! fault` by an access fault only. -/
theorem test_expect : Script.Expect.met (.value (.int (-1))) (.data (-1#64)) = true ∧
    Script.Expect.met .fault (.fault 9) = true ∧ Script.Expect.met .fault .ok = false := by decide

/-! ## Every statement's hypotheses are met -/

/-- A state in RUN: MODPOW 65, 17, 3233 before its first iteration (file 95, trace T1). -/
def running : State :=
  { regs 65 17 3233 with cmd := 2#64, phase := .run ⟨⟨65, 17, 3233⟩, .modpow 65 4⟩ }

theorem witness_ExponentBitsRebuildTheExponent : ∃ v : Nat, 1 ≤ v := ⟨1, by decide⟩

theorem witness_EveryStepKeepsTheStateInvariant :
    (∃ s t : State, s.phase = .idle ∧ s.Inv ∧ step s = .next t ∧ t.phase = .idle) ∧
    (∃ s t : State, s.busy = true ∧ s.Inv ∧ step s = .next t) :=
  ⟨⟨asked [.read 0], _, rfl, by show State.Observable _; decide, rfl, rfl⟩,
   ⟨running, _, rfl, by show State.Running _ _; decide, rfl⟩⟩

theorem witness_EveryStepKeepsStatusAmongNineValues :
    (∃ s t : State, s.phase = .idle ∧ s.status = 0x53#64 ∧ s.StatusListed ∧ step s = .next t) ∧
    (∃ s t : State, s.busy = true ∧ s.StatusListed ∧ step s = .next t) :=
  ⟨⟨{ asked [.write 3 0#64] with status := 0x53#64 }, _, rfl, rfl,
    by show (0x53#64 : Word) ∈ statusValues; decide, rfl⟩,
   ⟨running, _, rfl, Or.inl rfl, rfl⟩⟩

theorem witness_EveryStepKeepsWorkingValuesInI64 :
    ∃ s t : State, s.busy = true ∧ s.ValuesInRange ∧ step s = .next t :=
  ⟨running, _, rfl, ⟨by decide, by decide⟩, rfl⟩

theorem witness_OperandRegistersChangeByHostWritesOnly :
    (∃ s t : State, step s = .next t ∧ t.opa ≠ s.opa) ∧ (∃ s t : State, step s = .next t ∧ t.opb ≠ s.opb) ∧
    (∃ s t : State, step s = .next t ∧ t.opc ≠ s.opc) :=
  ⟨⟨asked [.write 0 1#64], _, rfl, by decide⟩, ⟨asked [.write 1 1#64], _, rfl, by decide⟩,
   ⟨asked [.write 2 1#64], _, rfl, by decide⟩⟩

theorem witness_ResetLeavesTheResetStateFromAnyPhase :
    (∃ s : State, s.phase = .idle ∧ ∃ rest, s.script = .rst :: rest) ∧
    (∃ s : State, s.busy = true ∧ ∃ rest, s.script = .rst :: rest) :=
  ⟨⟨asked [.rst], rfl, [], rfl⟩, ⟨{ running with script := [.rst, .read 0] }, rfl, [.read 0], rfl⟩⟩

theorem witness_ResetDuringACommandIsResetAfterIt :
    ∃ (s : State) (w : Word) (k : Nat) (rest : List HostAction), s.phase = .idle ∧
      s.script = .launch w :: (List.replicate k .pause ++ .rst :: rest) ∧
      ∃ r, steps (k + 1) s = .next r ∧ r.busy = true :=
  ⟨asked [.launch 3#64, .pause, .rst], 3#64, 1, [], rfl, rfl, _, rfl, by decide⟩

theorem witness_CommandsOnResetOperands :
    ∃ s : State, s.opa = 0#64 ∧ s.opb = 0#64 ∧ s.opc = 0#64 := ⟨State.reset, rfl, rfl, rfl⟩

theorem witness_ReadReturnsTheRegister :
    (∃ (s : State) (rest : List HostAction), s.phase = .idle ∧ s.script = .read 0 :: rest ∧ 0 = Reg.opa.index) ∧
    (∃ (s : State) (rest : List HostAction), s.phase = .idle ∧ s.script = .read 7 :: rest ∧ 7 = Reg.res2.index) ∧
    (∃ (s : State) (rest : List HostAction), s.phase = .idle ∧ s.script = .read 8 :: rest) :=
  ⟨⟨asked [.read 0], [], rfl, rfl, rfl⟩, ⟨asked [.read 7], [], rfl, rfl, rfl⟩, ⟨asked [.read 8], [], rfl, rfl⟩⟩

theorem witness_WriteDoesWhatItsIndexSays :
    (∀ i ∈ [0, 1, 2, 4, 7, 8], ∃ (s : State) (w : Word) (rest : List HostAction), s.phase = .idle ∧
      s.script = .write i w :: rest) ∧
    (∃ (s : State) (w : Word) (rest : List HostAction) (c : Instr), s.phase = .idle ∧
      s.script = .write 3 w :: rest ∧ decode w = .command c) ∧
    (∃ (s : State) (w : Word) (rest : List HostAction) (why : IllegalWord), s.phase = .idle ∧
      s.script = .write 3 w :: rest ∧ decode w = .illegal why) :=
  ⟨fun i _ => ⟨asked [.write i 1#64], 1#64, [], rfl, rfl⟩,
   ⟨asked [.write 3 6#64], 6#64, [], .fermat, rfl, rfl, by decide⟩,
   ⟨asked [.write 3 7#64], 7#64, [], .reservedOpcode, rfl, rfl, by decide⟩⟩

theorem witness_AccessFaultChangesNoState :
    (∃ (s : State) (rest : List HostAction), s.phase = .idle ∧ s.script = .read 8 :: rest) ∧
    (∃ (s : State) (w : Word) (rest : List HostAction), s.phase = .idle ∧ s.script = .write 4 w :: rest) :=
  ⟨⟨asked [.read 8], [], rfl, rfl⟩, ⟨asked [.write 4 1#64], 1#64, [], rfl, rfl⟩⟩

theorem witness_CommandWordReadsBack :
    ∃ (s : State) (w : Word) (rest : List HostAction), s.phase = .idle ∧
      s.script = .write 3 w :: .read 3 :: rest := ⟨asked [.write 3 7#64, .read 3], 7#64, [], rfl, rfl⟩

theorem witness_DecodeAndEncodeAgree :
    (∃ w : Word, w >>> 4 ≠ 0#64) ∧ (∃ w : Word, w >>> 4 = 0#64 ∧ 7 ≤ (w &&& 0xF#64).toNat) :=
  ⟨⟨16#64, by decide⟩, ⟨7#64, by decide⟩⟩

theorem witness_IllegalCommandWordOnlyFaults :
    ∃ (s : State) (w : Word) (rest : List HostAction), s.phase = .idle ∧ s.script = .write 3 w :: rest ∧
      commandWordLegal w = false ∧ statusReserved s.status = 0#56 :=
  ⟨asked [.write 3 7#64], 7#64, [], rfl, rfl, by decide, by decide⟩

theorem witness_CommandIgnoresOperandsItDoesNotRead :
    ∃ s s' t t' : State, exec .fermat s = .next t ∧ exec .fermat s' = .next t' ∧ s.opa = s'.opa ∧
      s.opb ≠ s'.opb ∧ s.opc ≠ s'.opc :=
  ⟨regs 9 0 0, regs 9 1 1, _, _, rfl, rfl, rfl, by decide, by decide⟩

theorem witness_ModpowPseudoInstructionRuns :
    ∃ (s : State) (b e m : Int) (rest : List HostAction), s.phase = .idle ∧
      s.script = Script.actions (Script.modpow (.int b) (.int e) (.int m)) ++ rest :=
  ⟨asked (Script.actions (Script.modpow (.int 65) (.int 17) (.int 3233))), 65, 17, 3233, [], rfl,
    (List.append_nil _).symm⟩

theorem witness_StepRunsTheDecodedCommand :
    ∃ (s : State) (w : Word) (i : Instr) (rest : List HostAction), s.phase = .idle ∧
      s.script = .write 3 w :: rest ∧ decode w = .command i :=
  ⟨asked [.write 3 4#64], 4#64, .xgcd, [], rfl, rfl, by decide⟩

theorem witness_AcceptanceSamplesAndClears :
    ∃ (s : State) (w : Word) (rest : List HostAction), s.phase = .idle ∧ s.script = .launch w :: rest :=
  ⟨asked [.launch 2#64], 2#64, [], rfl, rfl⟩

theorem witness_AccessIsHeldWhileRunning :
    (∃ (s : State) (e : Engine), s.phase = .run e ∧ State.headIsAccess s.script = true ∧
      ∃ t, step s = .next t ∧ t.busy = true) ∧
    (∃ (s : State) (e : Engine), s.phase = .run e ∧ State.headIsAccess s.script = true ∧
      ∃ t, step s = .next t ∧ t.busy = false) :=
  ⟨⟨{ running with script := [.read 5] }, _, rfl, rfl, _, rfl, by decide⟩,
   ⟨{ running with script := [.read 5], phase := .run ⟨⟨65, 17, 3233⟩, .modpow 2790 0⟩ }, _, rfl, rfl, _, rfl,
    by decide⟩⟩

theorem witness_StepwiseCommandReachesTheAtomicState :
    ∃ (s : State) (w : Word) (rest : List HostAction), s.phase = .idle ∧ s.script = .launch w :: rest ∧
      State.headIsAccess rest = true := ⟨asked [.launch 2#64, .read 5], 2#64, [.read 5], rfl, rfl, rfl⟩

theorem witness_EveryCommandKeepsItsFrame : ∃ (i : Instr) (s t : State), exec i s = .next t :=
  ⟨.modpow, regs 65 17 3233, _, rfl⟩

theorem witness_CommandIsAFunctionOfItsOperands :
    ∃ s s' : State, s.opa = s'.opa ∧ s.opb = s'.opb ∧ s.opc = s'.opc ∧ statusReserved s.status = 0#56 ∧
      statusReserved s'.status = 0#56 ∧ s.status ≠ s'.status :=
  ⟨regs 65 17 3233, { regs 65 17 3233 with status := 0x53#64 }, rfl, rfl, rfl, by decide, by decide, by decide⟩

theorem witness_SameCommandTwiceLeavesTheSameState :
    ∃ (w : Word) (s t : State), commandWrite w s = .next t := ⟨3#64, regs 48 18 0, _, rfl⟩

theorem witness_FlagsEachCommandSets :
    (∃ s t : State, exec .nop s = .next t) ∧
    (∃ s t : State, exec .gcd s = .next t ∧ statusCoprime t.status = true) :=
  ⟨⟨State.reset, _, rfl⟩, ⟨regs 17 3120 0, _, rfl, by decide +kernel⟩⟩

/-- A faulted completion, from its nine fields. -/
theorem faulted_of_fields {t : State} {f : CommandFault}
    (h : (t.res0, t.res1, t.res2, t.status, t.phase) = (0#64, 0#64, 0#64, statusFault 0#64 f, Phase.idle)) :
    t.Faulted f := by
  simp only [Prod.mk.injEq] at h
  obtain ⟨h0, h1, h2, hs, hp⟩ := h
  constructor <;> (try rw [hs]) <;> first | assumption | (cases f <;> decide)

theorem witness_FaultsEachCommandCanRaise :
    (∃ s t : State, exec .emod s = .next t ∧ t.Faulted .divideByZero) ∧
    (∃ s t : State, exec .modpow s = .next t ∧ t.Faulted .exponentRange) ∧
    (∃ s t : State, exec .modpow s = .next t ∧ t.Faulted .divideByZero) ∧
    (∃ s t : State, exec .modpow s = .next t ∧ t.Faulted .overflow) ∧
    (∃ s t : State, exec .gcd s = .next t ∧ t.Faulted .operandRange) ∧
    (∃ s t : State, exec .xgcd s = .next t ∧ t.Faulted .operandRange) ∧
    (∃ s t : State, exec .modinv s = .next t ∧ t.Faulted .operandRange) ∧
    (∃ s t : State, exec .fermat s = .next t ∧ t.Faulted .exponentRange) ∧
    (∃ s t : State, exec .fermat s = .next t ∧ t.Faulted .operandRange) ∧
    (∃ s t : State, exec .fermat s = .next t ∧ t.Faulted .overflow) :=
  ⟨⟨regs 5 0 0, _, rfl, faulted_of_fields (by decide +kernel)⟩,
   ⟨regs 5 0 7, _, rfl, faulted_of_fields (by decide +kernel)⟩,
   ⟨regs 5 2 0, _, rfl, faulted_of_fields (by decide +kernel)⟩,
   ⟨regs 3037000500 2 3037000501, _, rfl, faulted_of_fields (by decide +kernel)⟩,
   ⟨regs (-4) 6 0, _, rfl, faulted_of_fields (by decide +kernel)⟩,
   ⟨regs 4 (-6) 0, _, rfl, faulted_of_fields (by decide +kernel)⟩,
   ⟨regs (-4) 6 0, _, rfl, faulted_of_fields (by decide +kernel)⟩,
   ⟨regs 1 0 0, _, rfl, faulted_of_fields (by decide +kernel)⟩,
   ⟨regs (-1) 0 0, _, rfl, faulted_of_fields (by decide +kernel)⟩,
   ⟨regs 9223372036854775807 0 0, _, rfl, faulted_of_fields (by decide +kernel)⟩⟩

theorem witness_ChkIsTheRangeCheck :
    (∃ v : Int, -9223372036854775808 ≤ v ∧ v ≤ 9223372036854775807) ∧
    (∃ v : Int, v < -9223372036854775808 ∨ 9223372036854775807 < v) :=
  ⟨⟨-9223372036854775808, by decide⟩, ⟨9223372036854775808, by decide⟩⟩

theorem witness_EmodIsTheUniqueSignFollowingRemainder : (∃ b : Int, b = 0) ∧ (∃ b : Int, b ≠ 0) :=
  ⟨⟨0, rfl⟩, ⟨-1, by decide⟩⟩

theorem witness_EmodLaws : ∃ b : Int, b ≠ 0 ∧ (b = 1 ∨ b = -1) := ⟨-1, by decide⟩

theorem witness_EmodCommandLeavesTheRemainder :
    (∃ s : State, 0 < toInt s.opb) ∧ (∃ s : State, toInt s.opb < 0) ∧ (∃ s : State, toInt s.opb = 0) :=
  ⟨⟨regs 7 1 0, by decide⟩, ⟨regs 7 (-1) 0, by decide⟩, ⟨regs 7 0 0, by decide⟩⟩

theorem witness_FaultFreeModpowIsTheResidueOfThePower :
    (∃ s t : State, exec .modpow s = .next t ∧ statusErr t.status = false ∧ toInt s.opb = 1) ∧
    (∃ s t : State, exec .modpow s = .next t ∧ statusErr t.status = false ∧ 2 ≤ toInt s.opb) :=
  ⟨⟨regs 5 1 0, _, rfl, by decide +kernel, by decide⟩, ⟨regs (-2) 2 7, _, rfl, by decide +kernel, by decide⟩⟩

theorem witness_ModpowCompletesInTheOverflowFreeRange :
    ∃ s : State, 1 ≤ toInt s.opb ∧ 1 ≤ |toInt s.opc| ∧ |toInt s.opc| ≤ 3037000500 ∧
      |toInt s.opa| ≤ 3037000499 :=
  ⟨regs (-3037000499) 2 3037000500, by decide +kernel⟩

theorem witness_ModpowExponentOneReturnsTheBase : ∃ s : State, toInt s.opb = 1 ∧ toInt s.opc = 0 :=
  ⟨regs 5 1 0, by decide⟩

theorem witness_ModpowFaultsInTheirOrder :
    (∃ s : State, toInt s.opb < 1) ∧
    (∃ s : State, 2 ≤ toInt s.opb ∧ 3037000499 < |toInt s.opa|) ∧
    (∃ s : State, 2 ≤ toInt s.opb ∧ |toInt s.opa| ≤ 3037000499 ∧ toInt s.opc = 0) :=
  ⟨⟨regs 5 0 0, by decide⟩, ⟨regs 3037000500 2 0, by decide +kernel⟩, ⟨regs 3037000499 2 0, by decide +kernel⟩⟩

theorem witness_ModpowCompletesWithinSixtyTwoIterations :
    ∃ (s : State) (rest : List HostAction), s.phase = .idle ∧ s.script = .launch (encode .modpow) :: rest ∧
      State.headIsAccess rest = true := ⟨asked [.launch 2#64], [], rfl, rfl, rfl⟩

theorem witness_ModpowRoundTripsAnRsaTriple :
    ∃ (s : State) (p q : Nat) (d : Int), p.Prime ∧ q.Prime ∧ p ≠ q ∧ toInt s.opc = p * q ∧ p * q ≤ 3037000500 ∧
      0 ≤ toInt s.opa ∧ toInt s.opa < p * q ∧ 1 ≤ toInt s.opb ∧ 1 ≤ d ∧ inI64 d = true ∧
      ((p : Int) - 1) * ((q : Int) - 1) ∣ toInt s.opb * d - 1 :=
  ⟨regs 65 17 3233, 61, 53, 2753, by norm_num, by norm_num, by decide, by decide, by decide, by decide, by decide,
    by decide, by decide, by decide, by decide⟩

theorem witness_GcdCommandLeavesTheGcd :
    (∃ s : State, 0 ≤ toInt s.opa ∧ 0 ≤ toInt s.opb) ∧ (∃ s : State, toInt s.opa < 0 ∨ toInt s.opb < 0) :=
  ⟨⟨regs 0 0 0, by decide⟩, ⟨regs 4 (-1) 0, by decide⟩⟩

theorem witness_GcdCompletesWithinNinetyOneIterations :
    ∃ (s : State) (rest : List HostAction), s.phase = .idle ∧ s.script = .launch (encode .gcd) :: rest ∧
      State.headIsAccess rest = true := ⟨asked [.launch 3#64], [], rfl, rfl, rfl⟩

theorem witness_XgcdAndModinvFaultOnNegativeOperands :
    (∃ s : State, toInt s.opa < 0) ∧ (∃ s : State, toInt s.opb < 0) :=
  ⟨⟨regs (-1) 0 0, by decide⟩, ⟨regs 0 (-1) 0, by decide⟩⟩

theorem witness_XgcdCommandLeavesBezoutCoefficients : ∃ s : State, 0 ≤ toInt s.opa ∧ 0 ≤ toInt s.opb :=
  ⟨regs 48 18 0, by decide⟩

theorem witness_XgcdCoefficientsInSpecialCases :
    ∀ p ∈ [((0 : Int), (0 : Int)), (9, 0), (0, 9), (18, 48), (12, 12), (48, 18)],
      inI64 p.1 = true ∧ inI64 p.2 = true ∧ 0 ≤ p.1 ∧ 0 ≤ p.2 := by decide

theorem witness_ModinvNormalisesTheCoefficientOfXgcd : ∃ s : State, 0 ≤ toInt s.opa ∧ 0 ≤ toInt s.opb :=
  ⟨regs 17 3120 0, by decide⟩

theorem witness_ModinvLeavesAResidue : ∃ s : State, 0 ≤ toInt s.opa ∧ 1 ≤ toInt s.opb :=
  ⟨regs 0 1 0, by decide⟩

theorem witness_ModinvInvertsACoprimeOperand :
    ∃ s : State, 0 ≤ toInt s.opa ∧ 2 ≤ toInt s.opb ∧ Int.gcd (toInt s.opa) (toInt s.opb) = 1 :=
  ⟨regs 1 2 0, by decide +kernel⟩

theorem witness_ModinvOnDegenerateOperands :
    (∃ s : State, 0 ≤ toInt s.opa ∧ toInt s.opb = 1) ∧ (∃ s : State, 0 ≤ toInt s.opa ∧ toInt s.opb = 0) ∧
    (∃ s : State, toInt s.opa = 0 ∧ 0 < toInt s.opb) ∧ (∃ s : State, toInt s.opb ≤ toInt s.opa ∧ 0 < toInt s.opb) :=
  ⟨⟨regs 0 1 0, by decide⟩, ⟨regs 9 0 0, by decide⟩, ⟨regs 0 1 0, by decide⟩, ⟨regs 65537 3120 0, by decide⟩⟩

theorem witness_FermatCommandGivesTheVerdict :
    (∃ s : State, toInt s.opa = 2) ∧ (∃ s : State, toInt s.opa = 3037000500) :=
  ⟨⟨regs 2 0 0, by decide⟩, ⟨regs 3037000500 0 0, by decide⟩⟩

/-- The least operand, the first above the overflow-free range (composite at the witness 2: the fault-free outcome there), the largest
(R150 by hand: 2^31 squares to 2^62, and its product with 2 leaves I64, Overflow). -/
theorem witness_FermatOutcomeOnEveryOperandFromTwo :
    (∃ s : State, toInt s.opa = 2) ∧
    (∃ s : State, toInt s.opa = 3037000501 ∧ results .fermat s = some (0, 2, 0, 0x01#64)) ∧
    (∃ s : State, toInt s.opa = 9223372036854775807 ∧ results .fermat s = some (0, 0, 0, 0x53#64)) :=
  ⟨⟨regs 2 0 0, by decide⟩, ⟨regs 3037000501 0 0, by decide, by decide +kernel⟩,
   ⟨regs 9223372036854775807 0 0, by decide, by decide +kernel⟩⟩

theorem witness_FermatDeclaresPrimesPrime :
    ∃ s : State, (toInt s.opa).toNat.Prime ∧ toInt s.opa ≤ 3037000500 :=
  ⟨regs 61 0 0, by rw [show (toInt (regs 61 0 0).opa).toNat = 61 by decide]; norm_num, by decide⟩

theorem witness_FermatFaultsBelowTwo :
    (∃ s : State, toInt s.opa < 0) ∧ (∃ s : State, toInt s.opa = 0) ∧ (∃ s : State, toInt s.opa = 1) :=
  ⟨⟨regs (-1) 0 0, by decide⟩, ⟨regs 0 0 0, by decide⟩, ⟨regs 1 0 0, by decide⟩⟩

theorem witness_FermatScanNeedsOnlyWitnessesBelowN : ∃ n : Int, 2 ≤ n := ⟨2, by decide⟩

end Sys2Proof.Tests
end

section
/-! The state after reset: what it holds, register by register. -/

namespace Sys2Proof.Machine

/-- Settles O3: each register is read off the definition of the reset state (R37), and `.idle`, unlike `.run`, carries no working
value. -/
theorem resetStateIsAllZero : Obligations.ResetStateIsAllZero :=
  ⟨rfl, rfl, rfl, rfl, rfl, rfl, rfl, rfl, rfl⟩

end Sys2Proof.Machine
end

section
/-! The host's port in IDLE (file 20): a read or a write at the head of the script, the step that serves it, and what it leaves. -/

namespace Sys2Proof.Machine

/-- The step that serves a read is `serveRead`, the read being off the script. -/
theorem step_read {s : State} {i : Nat} {rest : List HostAction} (hi : s.phase = .idle)
    (hs : s.script = .read i :: rest) : step s = .next (serveRead i { s with script := rest }) :=
  step_idle_cons hi hs

/-- The step that serves a write is `serveWrite`, the write being off the script. -/
theorem step_write {s : State} {i : Nat} {w : Word} {rest : List HostAction} (hi : s.phase = .idle)
    (hs : s.script = .write i w :: rest) : step s = serveWrite i w { s with script := rest } :=
  step_idle_cons hi hs

/-- Taking an action off the script and answering it is no change of the block's own state. -/
theorem sameBlock_respond (s : State) (rest : List HostAction) (r : Response) :
    s.SameBlock (State.respond r { s with script := rest }) :=
  ⟨rfl, rfl, rfl, rfl, rfl, rfl, rfl, rfl, rfl⟩

theorem Reg.index_lt (r : Reg) : r.index < 8 := by cases r <;> decide

theorem Reg.ofIndex?_index (r : Reg) : Reg.ofIndex? r.index = some r := by cases r <;> rfl

/-- The register map is injective: no two registers share an index (R52). -/
theorem Reg.index_injective {r r' : Reg} (h : r.index = r'.index) : r = r' := by
  rw [← Option.some.injEq, ← Reg.ofIndex?_index, h, Reg.ofIndex?_index]

/-- What a write to CMD changes beside CMD itself is only what a command may change. -/
theorem commandWrite_frame {w : Word} {s t : State} (h : commandWrite w s = .next t) :
    State.Frame { s with cmd := w } t := by
  obtain ⟨run, hrun⟩ := commandWrite_is_execute w
  obtain rfl := Host.Outcome.next.inj ((hrun s).symm.trans h)
  exact execute_frame run _

/-- A write to CMD is answered `ok` once its command has ended, with or without a fault. -/
theorem step_write_cmd {s t : State} {w : Word} {rest : List HostAction} (hi : s.phase = .idle)
    (hs : s.script = .write 3 w :: rest) (h : commandWrite w { s with script := rest } = .next t) :
    step s = .next { t with transcript := .ok :: s.transcript } := by
  have htr : t.transcript = s.transcript := (commandWrite_frame h).transcript
  rw [step_write hi hs, serveWrite_cmd, h, afterNext, State.respond, htr]

/-- Settles O13, index by index: the operand registers, CMD with a legal word (every command is the shared lifecycle) and with an
illegal one (the lifecycle around the fault alone), and the refused indices. -/
theorem writeDoesWhatItsIndexSays : Obligations.WriteDoesWhatItsIndexSays := by
  intro s i w rest hi hs
  refine ⟨?opa, ?opb, ?opc, ?legal, ?illegal, ?refused⟩
  case opa => rintro rfl; exact (step_write hi hs).trans (serveWrite_opa w _)
  case opb => rintro rfl; exact (step_write hi hs).trans (serveWrite_opb w _)
  case opc => rintro rfl; exact (step_write hi hs).trans (serveWrite_opc w _)
  case legal =>
    rintro rfl c hc
    obtain ⟨run, hrun⟩ := exec_is_execute c
    have hw := (commandWrite_of_decode hc { s with script := rest }).trans (hrun _)
    exact ⟨_, hrun _, step_write_cmd hi hs hw⟩
  case illegal =>
    rintro rfl why hwhy
    have hw := commandWrite_of_illegal hwhy { s with script := rest }
    exact ⟨_, step_write_cmd hi hs hw, execute_faulted rfl, commandWrite_frame hw⟩
  case refused => intro h4; exact (step_write hi hs).trans (serveWrite_fault h4 w _)

/-- Settles O12: an index is a register's, whose pattern is answered, or lies above 7 and faults; either way only an answer is
given. -/
theorem readReturnsTheRegister : Obligations.ReadReturnsTheRegister := by
  intro s i rest hi hs
  rw [step_read hi hs]
  rcases index_cases i with ⟨r, rfl⟩ | h8
  · rw [serveRead_reg]
    refine ⟨_, rfl, sameBlock_respond s rest _, rfl, fun q hq => ?_, fun h8 => ?_⟩
    · rw [← Reg.index_injective hq]; rfl
    · exact absurd r.index_lt (by omega)
  · rw [serveRead_fault h8]
    refine ⟨_, rfl, sameBlock_respond s rest _, rfl, fun q hq => ?_, fun _ => rfl⟩
    exact absurd q.index_lt (by omega)

/-- Settles O14: a refused read and a refused write are both served by the fault answer alone (R55). -/
theorem accessFaultChangesNoState : Obligations.AccessFaultChangesNoState := by
  intro s a i rest hi hs hrefused
  have hstep : step s = .next (State.respond (.fault i) { s with script := rest }) := by
    rcases hrefused with ⟨rfl, h8⟩ | ⟨w, rfl, h4⟩
    · rw [step_read hi hs, serveRead_fault h8]
    · rw [step_write hi hs, serveWrite_fault h4]
  exact ⟨_, hstep, sameBlock_respond s rest _, rfl, rfl⟩

end Sys2Proof.Machine
end

section
/-! The encoding of commands (file 30): the decoder against the encoder and the legality of a word, and what a word that is no
command's does. -/

namespace Sys2Proof

/-- The facts about each command's word, said of every command. -/
theorem wordOf (i : Instr) : Laws.WordOf.Statement i := by
  cases i
  exacts [Laws.WordOf.nop, Laws.WordOf.emod, Laws.WordOf.modpow, Laws.WordOf.gcd, Laws.WordOf.xgcd, Laws.WordOf.modinv,
    Laws.WordOf.fermat]

/-- A command's own word is legal (R72). -/
theorem commandWordLegal_encode (i : Instr) : commandWordLegal (encode i) = true :=
  have ⟨_, hlegal, _⟩ := wordOf i
  hlegal

/-- A command's own word decodes to it (R73). -/
theorem decode_encode (i : Instr) : decode (encode i) = .command i :=
  have ⟨_, _, hdecode⟩ := wordOf i
  hdecode

/-- The opcode map names each command once, at the number its word is (R71). -/
theorem decodeOp_eq_command {n : Nat} {i : Instr} (h : decodeOp n = .command i) : n = (encode i).toNat := by
  unfold decodeOp at h
  split at h <;> cases h <;> rfl

/-- Without its ZERO field a word is its OP field (R70). -/
theorem opField_of_zeroField {w : Word} (h : zeroField w = 0#60) : opField w = w.toNat := by
  have hz : w.toNat / 16 % 2 ^ 60 = 0 := by
    simpa [zeroField, Nat.shiftRight_eq_div_pow] using congrArg BitVec.toNat h
  have hop : opField w = w.toNat % 16 := by simp [opField]
  omega

/-- Only a command's own word decodes to it (R73). -/
theorem eq_encode_of_decode {w : Word} {i : Instr} (h : decode w = .command i) : w = encode i := by
  unfold decode at h
  split at h
  case isTrue hz => exact BitVec.eq_of_toNat_eq ((opField_of_zeroField hz).symm.trans (decodeOp_eq_command h))
  case isFalse => cases h

/-- The decoder rejects every word that is not legal (R72). -/
theorem decode_of_not_legal {w : Word} (h : commandWordLegal w = false) : ∃ why, decode w = .illegal why := by
  cases hd : decode w with
  | illegal why => exact ⟨why, rfl⟩
  | command i =>
    rw [eq_encode_of_decode hd, commandWordLegal_encode] at h
    cases h

end Sys2Proof

namespace Sys2Proof.Machine

/-- Settles O16: the seven words are the encodings of their commands; the nine reserved words are evaluated. -/
theorem opcodeMapWordsDecode : Obligations.OpcodeMapWordsDecode :=
  ⟨decode_encode .nop, decode_encode .emod, decode_encode .modpow, decode_encode .gcd, decode_encode .xgcd,
    decode_encode .modinv, decode_encode .fermat, by decide⟩

/-- The record of an illegal command: DONE, ERR and ERRCODE 1, all else cleared at acceptance, the reserved bits being 0. -/
theorem statusFault_accept_illegalCommand {w : Word} (h : statusReserved w = 0#56) :
    statusFault (statusAccept w) .illegalCommand = 0x13#64 := by
  apply status_ext
  case hr => rw [statusReserved_fault, statusReserved_accept, h]; rfl
  all_goals simp; rfl

/-- An illegal command word is accepted and faults at once, writing nothing but the results and STATUS (R72). -/
theorem executeIllegal_eq {s : State} (hi : s.phase = .idle) (hr : statusReserved s.status = 0#56) :
    s.executeIllegal = { s with status := 0x13#64, res0 := 0#64, res1 := 0#64, res2 := 0#64 } := by
  rw [State.executeIllegal, execute_of_error rfl, State.takeFault, State.accept_status,
    statusFault_accept_illegalCommand hr, ← hi, State.accept]

/-- Settles O19: the word does not decode, so the write to CMD is the lifecycle around the fault alone. -/
theorem illegalCommandWordOnlyFaults : Obligations.IllegalCommandWordOnlyFaults := by
  intro s w rest hi hs hw hr
  obtain ⟨why, hwhy⟩ := decode_of_not_legal hw
  have hfault := executeIllegal_eq (s := { s with cmd := w, script := rest }) hi hr
  exact step_write_cmd hi hs ((commandWrite_of_illegal hwhy _).trans (congrArg _ hfault))

end Sys2Proof.Machine
end

section
/-! The execution of a command (file 40): which part of the state it depends on, and NOP. -/

namespace Sys2Proof.Machine

/-- Acceptance clears and completion sets DONE, so only the reserved bits of the old STATUS outlive a fault-free command (R26, R94). -/
theorem statusComplete_accept_congr {v w : Word} (h : statusReserved v = statusReserved w) (p c : Bool) :
    statusComplete (statusAccept v) p c = statusComplete (statusAccept w) p c := by
  apply status_ext
  case hr => simpa using h
  all_goals simp

/-- Only the reserved bits of the old STATUS outlive a faulting command (R26, R95). -/
theorem statusFault_accept_congr {v w : Word} (h : statusReserved v = statusReserved w) (f : CommandFault) :
    statusFault (statusAccept v) f = statusFault (statusAccept w) f := by
  apply status_ext
  case hr => simpa using h
  all_goals simp

/-- The lifecycle reads the operand registers, CMD and the reserved bits of STATUS, nothing else of the block (R98). -/
theorem execute_sameBlock (run : Operands → Except CommandFault Results) {s s' : State} (ha : s.opa = s'.opa)
    (hb : s.opb = s'.opb) (hc : s.opc = s'.opc) (hcmd : s.cmd = s'.cmd)
    (hr : statusReserved s.status = statusReserved s'.status) : (s.execute run).SameBlock (s'.execute run) := by
  have hsample : s.sample = s'.sample := State.sample_congr ha hb hc
  cases hout : run s.sample with
  | ok r =>
    rw [execute_of_ok hout, execute_of_ok (hsample ▸ hout)]
    exact ⟨ha, hb, hc, hcmd, statusComplete_accept_congr hr _ _, rfl, rfl, rfl, rfl⟩
  | error f =>
    rw [execute_of_error hout, execute_of_error (hsample ▸ hout)]
    exact ⟨ha, hb, hc, hcmd, statusFault_accept_congr hr f, rfl, rfl, rfl, rfl⟩

/-- Settles O30: the word alone fixes the function that runs, and the lifecycle around it reads only what the two states share. -/
theorem commandIsAFunctionOfItsOperands : Obligations.CommandIsAFunctionOfItsOperands := by
  intro w s s' ha hb hc hr hr'
  obtain ⟨run, hrun⟩ := commandWrite_is_execute w
  exact ⟨_, _, hrun s, hrun s', execute_sameBlock run ha hb hc rfl (hr.trans hr'.symm)⟩

/-- Settles O34: NOP is the lifecycle around the function that ends with zero results (R97). -/
theorem nopClearsAndCompletes : Obligations.NopClearsAndCompletes := fun s =>
  ⟨_, exec_nop s, execute_frame runNop s, execute_completed (r := ⟨0, 0, 0, false, false⟩) rfl rfl rfl rfl⟩

end Sys2Proof.Machine
end

section
/-! Modular arithmetic (file 41): the range check, the sign-following remainder with its command EMOD, and GCD. -/

namespace Sys2Proof.Machine

/-- Settles O35: the bounds of I64 are `-2 ^ 63` and `2 ^ 63 - 1`, and `chk` decides membership. -/
theorem chkIsTheRangeCheck : Obligations.ChkIsTheRangeCheck := by
  intro v
  constructor
  · intro hin
    exact chk_of_inI64 ((inI64_iff v).2 (by omega))
  · intro hout
    have hnot : ¬ inI64 v = true := by rw [inI64_iff]; omega
    exact chk_eq_error_iff.2 ⟨Bool.eq_false_of_not_eq_true hnot, rfl⟩

/-- `Int.fdiv` is the floor of the rational quotient. A negative divisor is made positive by negating both numbers. -/
theorem floor_div_eq_fdiv (a b : Int) : ⌊(a : ℚ) / (b : ℚ)⌋ = a.fdiv b := by
  have floor_natCast (c : Int) (n : Nat) : ⌊(c : ℚ) / (n : ℚ)⌋ = c.fdiv n := by
    rw [Rat.floor_intCast_div_natCast, Int.fdiv_eq_ediv_of_nonneg c (Int.natCast_nonneg n)]
  obtain ⟨n, rfl | rfl⟩ := b.eq_nat_or_neg
  · exact floor_natCast a n
  · rw [← Int.neg_fdiv_neg, neg_neg, ← floor_natCast, Int.cast_neg, Int.cast_neg, Int.cast_natCast, div_neg, neg_div]

/-- The floored remainder is the only number that differs from `a` by a multiple of `b` and lies between 0 and `b` on `b`'s side
(R105). -/
theorem eq_fmod_iff {a b r : Int} (h : b ≠ 0) :
    r = a.fmod b ↔ b ∣ a - r ∧ (0 < b → 0 ≤ r ∧ r < b) ∧ (b < 0 → b < r ∧ r ≤ 0) := by
  constructor
  · rintro rfl
    refine ⟨⟨a.fdiv b, (Int.mul_fdiv_self a b).symm⟩, fun hpos => ?_, fun hneg => ?_⟩
    · exact ((Int.fdiv_fmod_unique hpos).1 ⟨rfl, rfl⟩).2
    · exact ((Int.fdiv_fmod_unique' hneg).1 ⟨rfl, rfl⟩).2
  · rintro ⟨⟨q, hq⟩, hpos, hneg⟩
    have hdiv : r + b * q = a := by omega
    rcases Int.lt_or_gt_of_ne h with hb | hb
    · exact ((Int.fdiv_fmod_unique' hb).2 ⟨hdiv, hneg hb⟩).2.symm
    · exact ((Int.fdiv_fmod_unique hb).2 ⟨hdiv, hpos hb⟩).2.symm

/-- A remainder is in I64 with its divisor, whatever the dividend: no `chk` is needed (R105). -/
theorem inI64_fmod (a : Int) {b : Int} (h : b ≠ 0) (hb : inI64 b = true) : inI64 (a.fmod b) = true := by
  obtain ⟨-, hpos, hneg⟩ := (eq_fmod_iff (a := a) h).1 rfl
  rw [inI64_iff] at hb ⊢
  omega

/-- Settles O36: away from the fault `emod` is the floored remainder, which has both descriptions. -/
theorem emodIsTheUniqueSignFollowingRemainder : Obligations.EmodIsTheUniqueSignFollowingRemainder := by
  intro a b
  refine ⟨fun h0 => h0 ▸ emod_zero a, fun h => ⟨?floor, fun r => ?unique⟩⟩
  case floor => rw [emod_of_ne a h, Int.fmod_def, floor_div_eq_fdiv]
  case unique => rw [← eq_fmod_iff h, emod_eq_ok_iff, and_iff_right h]

theorem runEmod_of_ne {o : Operands} (h : o.b ≠ 0) : runEmod o = .ok ⟨o.a.fmod o.b, 0, 0, false, false⟩ := by
  rw [runEmod, emod_of_ne o.a h]; rfl

theorem runEmod_of_zero {o : Operands} (h : o.b = 0) : runEmod o = .error .divideByZero := by
  rw [runEmod, h, emod_zero]; rfl

/-- Settles O38: EMOD is the lifecycle around `emod`, whose result is in I64 with OPB. -/
theorem emodCommandLeavesTheRemainder : Obligations.EmodCommandLeavesTheRemainder := by
  intro s
  constructor
  · intro h
    have hin := inI64_fmod (toInt s.opa) h (inI64_toInt s.opb)
    exact ⟨_, _, exec_emod s, execute_frame runEmod s, execute_completed (runEmod_of_ne h) hin rfl rfl, (eq_fmod_iff h).1 rfl⟩
  · intro h
    exact ⟨_, exec_emod s, execute_frame runEmod s, execute_faulted (runEmod_of_zero h)⟩

/-- Euclid's step keeps the greatest common divisor (R114). -/
theorem gcd_fmod {b : Int} (a : Int) (hb : 0 ≤ b) : Int.gcd b (a.fmod b) = Int.gcd a b := by
  rw [Int.fmod_eq_emod_of_nonneg a hb, Int.gcd_comm, Int.gcd_emod]

/-- The loop's second argument strictly decreases (R115 (g)), so `b` iterations always end it, with the greatest common divisor. -/
theorem gcdLoop_eq_gcd {fuel : Nat} {a b : Int} (ha : 0 ≤ a) (hb : 0 ≤ b) (hfuel : b ≤ fuel) :
    gcdLoop fuel a b = .ok (Int.gcd a b) := by
  induction fuel generalizing a b with
  | zero =>
    obtain rfl : b = 0 := by omega
    rw [gcdLoop_done, Int.gcd_zero_right, Int.natAbs_of_nonneg ha]
  | succ fuel ih =>
    rcases hb.eq_or_lt with rfl | hpos
    · rw [gcdLoop_done, Int.gcd_zero_right, Int.natAbs_of_nonneg ha]
    · have hlt := Int.fmod_lt_of_pos a hpos
      rw [gcdLoop_succ_of_ne fuel a hpos.ne', ih hb (Int.fmod_nonneg_of_pos a hpos) (by omega), gcd_fmod a hb]

/-- `gcd` is the greatest common divisor on non-negative arguments (R115 (a), (b)). -/
theorem gcd_of_nonneg {a b : Int} (ha : 0 ≤ a) (hb : 0 ≤ b) : gcd a b = .ok (Int.gcd a b) := by
  rw [gcd, if_neg (by omega), gcdLoop_eq_gcd ha hb (Int.toNat_of_nonneg hb).ge]

theorem gcd_of_neg {a b : Int} (h : a < 0 ∨ b < 0) : gcd a b = .error .operandRange := if_pos h

/-- The greatest common divisor of two non-negative numbers is at most one of them (R115 (e)), so it is in I64 with them. -/
theorem inI64_gcd {a b : Int} (ha : 0 ≤ a) (hb : 0 ≤ b) (hai : inI64 a = true) (hbi : inI64 b = true) :
    inI64 (Int.gcd a b) = true := by
  rcases ha.eq_or_lt with rfl | hpos
  · rwa [Int.gcd_zero_left, Int.natAbs_of_nonneg hb]
  · have hle := Int.gcd_le_left b hpos
    rw [inI64_iff] at hai ⊢
    omega

theorem runGcd_of_nonneg {o : Operands} (ha : 0 ≤ o.a) (hb : 0 ≤ o.b) : runGcd o = .ok (gcdResults (Int.gcd o.a o.b)) := by
  rw [runGcd, gcd_of_nonneg ha hb]; rfl

theorem runGcd_of_neg {o : Operands} (h : o.a < 0 ∨ o.b < 0) : runGcd o = .error .operandRange := by
  rw [runGcd, gcd_of_neg h]; rfl

/-- GCD's COPRIME flag is the test that the greatest common divisor, as a natural number, is 1 (R116). -/
theorem gcdResults_coprime (n : Nat) : (gcdResults n).coprime = decide (n = 1) :=
  decide_eq_decide.2 Nat.cast_eq_one

/-- Settles O46: GCD is the lifecycle around `gcd`, whose result is in I64 with the operands. -/
theorem gcdCommandLeavesTheGcd : Obligations.GcdCommandLeavesTheGcd := by
  intro s
  constructor
  · intro ha hb
    have hin := inI64_gcd ha hb (inI64_toInt s.opa) (inI64_toInt s.opb)
    rw [← gcdResults_coprime]
    exact ⟨_, exec_gcd s, execute_frame runGcd s, execute_completed (runGcd_of_nonneg ha hb) hin rfl rfl⟩
  · intro h
    exact ⟨_, exec_gcd s, execute_frame runGcd s, execute_faulted (runGcd_of_neg h)⟩

end Sys2Proof.Machine
end

section
/-! The function of each command as one map of the decoded word, and one rule per way a turn of the engine is put together. -/

namespace Sys2Proof.Machine

/-- The function `Run` calls for a decoded word (R93); an illegal word does nothing but fault (R72). -/
def commandFunction : Decoded → Operands → Except CommandFault Results
  | .command .nop => runNop
  | .command .emod => runEmod
  | .command .modpow => runModpow
  | .command .gcd => runGcd
  | .command .xgcd => runXgcd
  | .command .modinv => runModinv
  | .command .fermat => runFermat
  | .illegal _ => fun _ => .error .illegalCommand

/-- Every arm of `exec` is the shared lifecycle around the command's function. -/
theorem exec_eq_execute (i : Instr) (s : State) : exec i s = .next (s.execute (commandFunction (.command i))) := by
  cases i <;> rfl

theorem eq_execute_of_exec {i : Instr} {s t : State} (h : exec i s = .next t) :
    t = s.execute (commandFunction (.command i)) :=
  (Host.Outcome.next.inj ((exec_eq_execute i s).symm.trans h)).symm

/-- A write to CMD is the shared lifecycle around the function of the word written, legal or not (R54, R72). -/
theorem commandWrite_eq_execute (w : Word) (s : State) :
    commandWrite w s = .next (State.execute (commandFunction (decode w)) { s with cmd := w }) := by
  cases h : decode w with
  | command i => rw [commandWrite_of_decode h, exec_eq_execute]
  | illegal why => exact commandWrite_of_illegal h s

/-- The turn goes on with work that satisfies `P`, or it ends `Run` with an outcome that satisfies `Q`. -/
def Turn.Sat (P : Work → Prop) (Q : Except CommandFault Results → Prop) : Turn → Prop
  | .goOn w => P w
  | .ended out => Q out

section
variable {P : Work → Prop} {Q : Except CommandFault Results → Prop}

theorem Turn.Sat.of_goOn {t : Turn} {w : Work} (h : t.Sat P Q) (ht : t = .goOn w) : P w := by rwa [ht] at h

theorem Turn.Sat.of_ended {t : Turn} {out : Except CommandFault Results} (h : t.Sat P Q) (ht : t = .ended out) :
    Q out := by rwa [ht] at h

theorem Turn.from_sat {α : Type} {x : Except CommandFault α} {k : α → Turn} (hok : ∀ v, x = .ok v → (k v).Sat P Q)
    (herror : ∀ f, x = .error f → Q (.error f)) : (Turn.from x k).Sat P Q := by
  cases x with
  | ok v => exact hok v rfl
  | error f => exact herror f rfl

theorem modpowBegin_sat {base e : Int} {k : Int → Nat → Work} (hfault : e < 1 → Q (.error .exponentRange))
    (hbegin : 1 ≤ e → P (k base (bitlen e.toNat - 1))) : (modpowBegin base e k).Sat P Q := by
  unfold modpowBegin
  split
  · exact hfault ‹_›
  · exact hbegin (by omega)

theorem xgcdTurn_sat {v : EuclidVals} {wrap : EuclidVals → Work} {k : EuclidVals → Turn}
    (hdone : v.r1 = 0 → (k v).Sat P Q) (hiter : v.r1 ≠ 0 → ∀ u, xgcdIter v = .ok u → P (wrap u))
    (herror : v.r1 ≠ 0 → ∀ f, xgcdIter v = .error f → Q (.error f)) : (xgcdTurn v wrap k).Sat P Q := by
  unfold xgcdTurn
  split
  · exact hdone ‹_›
  · exact Turn.from_sat (hiter ‹_›) (herror ‹_›)

/-- The sign test at the beginning of the Euclidean commands (R114, R130). -/
theorem signTest_sat {a b : Int} {w : Work} (hneg : a < 0 ∨ b < 0 → Q (.error .operandRange))
    (hgo : 0 ≤ a → 0 ≤ b → P w) :
    (if a < 0 ∨ b < 0 then Turn.ended (.error .operandRange) else .goOn w).Sat P Q := by
  split
  · exact hneg ‹_›
  · exact hgo (by omega) (by omega)

end

end Sys2Proof.Machine
end

section
/-! What one turn of the engine keeps: the command it works on, and the range of every value it holds. -/

namespace Sys2Proof.Machine

/-- The decoded word that working values belong to (R34). -/
def Work.command : Work → Decoded
  | .start d => d
  | .modpow _ _ => .command .modpow
  | .gcd _ _ => .command .gcd
  | .xgcd _ => .command .xgcd
  | .modinv _ => .command .modinv
  | .fermat _ => .command .fermat
  | .fermatGcd _ _ _ => .command .fermat
  | .fermatPow _ _ _ => .command .fermat

/-- A pattern decodes to a command exactly when it is that command's word (R73). -/
theorem decode_eq_command_iff {w : Word} {i : Instr} : decode w = .command i ↔ w = encode i :=
  ⟨eq_encode_of_decode, fun h => h ▸ decode_encode i⟩

theorem Work.runs_iff (k : Work) (w : Word) : k.runs w = true ↔ decode w = k.command := by
  cases k
  case start d => exact beq_iff_eq.trans eq_comm
  all_goals exact beq_iff_eq.trans decode_eq_command_iff.symm

/-- What a fault-free end says of PRIME and COPRIME, by the command (R27, R116, R133, R136, R152). -/
def Results.FlagsOf (r : Results) : Decoded → Prop
  | .command .gcd => r.prime = false ∧ r.coprime = (r.r0 == 1)
  | .command .xgcd => r.prime = false ∧ r.coprime = (r.r2 == 1)
  | .command .modinv => r.prime = false ∧ r.coprime = (r.r2 == 1)
  | .command .fermat => r.prime = (r.r0 == 1) ∧ r.coprime = false ∧ (r.r0 = 1 → r.r1 = 0) ∧ r.r2 = 0
  | .command .nop => r.prime = false ∧ r.coprime = false
  | .command .emod => r.prime = false ∧ r.coprime = false
  | .command .modpow => r.prime = false ∧ r.coprime = false
  | .illegal _ => False

/-- A turn stays with the command it works on, and a fault-free end sets that command's flags. -/
theorem turn_command (o : Operands) (w : Work) :
    (turn o w).Sat (fun w' => w'.command = w.command) (fun out => ∀ r, out = .ok r → r.FlagsOf w.command) := by
  have error {f : CommandFault} {d : Decoded} : ∀ r, Except.error f = .ok r → Results.FlagsOf r d := nofun
  cases w with
  | start d =>
    rcases d with (_ | _) | _
    case command.nop => rintro r h; cases h; exact ⟨rfl, rfl⟩
    case command.emod => rintro r h; obtain ⟨v, -, rfl⟩ := runEmod_eq_ok h; exact ⟨rfl, rfl⟩
    case command.modpow => exact modpowBegin_sat (fun _ => error) (fun _ => rfl)
    case command.gcd => exact signTest_sat (fun _ => error) (fun _ _ => rfl)
    case command.xgcd => exact signTest_sat (fun _ => error) (fun _ _ => rfl)
    case command.modinv => exact signTest_sat (fun _ => error) (fun _ _ => rfl)
    case command.fermat => exact rfl
    case illegal => exact error
  | modpow acc i =>
    cases i with
    | zero => rintro r h; cases h; exact ⟨rfl, rfl⟩
    | succ i => exact Turn.from_sat (fun _ _ => rfl) (fun _ _ => error)
  | gcd a b =>
    rw [turn]
    split
    · rintro r h; cases h; exact ⟨rfl, rfl⟩
    · exact Turn.from_sat (fun _ _ => rfl) (fun _ _ => error)
  | xgcd v =>
    rw [turn]
    refine xgcdTurn_sat (fun _ => ?_) (fun _ _ _ => rfl) (fun _ _ _ => error)
    rintro r h; cases h; exact ⟨rfl, rfl⟩
  | modinv v =>
    rw [turn]
    refine xgcdTurn_sat (fun _ => Turn.from_sat (fun d _ => ?_) (fun _ _ => error)) (fun _ _ _ => rfl)
      (fun _ _ _ => error)
    rintro r h; cases h; exact ⟨rfl, rfl⟩
  | fermat a =>
    rw [turn]
    split
    · rintro r h; cases h; exact ⟨rfl, rfl, fun _ => rfl, rfl⟩
    · exact signTest_sat (fun _ => error) (fun _ _ => rfl)
  | fermatGcd a x y =>
    rw [turn]
    split
    · split
      · exact Turn.from_sat (fun _ _ => modpowBegin_sat (fun _ => error) (fun _ => rfl)) (fun _ _ => error)
      · exact rfl
    · exact Turn.from_sat (fun _ _ => rfl) (fun _ _ => error)
  | fermatPow a acc i =>
    cases i with
    | zero =>
      refine Turn.from_sat (fun r _ => ?_) (fun _ _ => error)
      split
      · exact rfl
      · rintro r h; cases h; exact ⟨rfl, rfl, fun h : (0 : Int) = 1 => absurd h zero_ne_one, rfl⟩
    | succ i => exact Turn.from_sat (fun _ _ => rfl) (fun _ _ => error)

/-! The range of the working values (R100) -/

/-- The three results lie in I64, so that `to_bits` loses nothing (R94). -/
def Results.InRange (r : Results) : Prop := inI64 r.r0 = true ∧ inI64 r.r1 = true ∧ inI64 r.r2 = true

theorem Operands.inRange_iff (o : Operands) :
    o.inRange = true ↔ inI64 o.a = true ∧ inI64 o.b = true ∧ inI64 o.c = true := by
  simp [Operands.inRange, and_assoc]

theorem State.sample_inRange (s : State) : s.sample.inRange = true :=
  (Operands.inRange_iff _).2 ⟨inI64_toInt _, inI64_toInt _, inI64_toInt _⟩

theorem EuclidVals.inRange_iff (v : EuclidVals) :
    v.inRange = true ↔ inI64 v.r0 = true ∧ inI64 v.r1 = true ∧ inI64 v.s0 = true ∧ inI64 v.s1 = true ∧
      inI64 v.t0 = true ∧ inI64 v.t1 = true ∧ 0 ≤ v.r0 ∧ 0 ≤ v.r1 := by
  simp [EuclidVals.inRange, and_assoc]

theorem Work.inRange_modpow_iff {acc : Int} {i : Nat} :
    (Work.modpow acc i).inRange = true ↔ inI64 acc = true ∧ i ≤ 62 := by simp [Work.inRange]

theorem Work.inRange_gcd_iff {a b : Int} :
    (Work.gcd a b).inRange = true ↔ inI64 a = true ∧ inI64 b = true := by simp [Work.inRange]

theorem Work.inRange_fermat_iff {a : Nat} :
    (Work.fermat a).inRange = true ↔ a ≤ Config.witnessLimit := by simp [Work.inRange]

theorem Work.inRange_fermatGcd_iff {a : Nat} {x y : Int} :
    (Work.fermatGcd a x y).inRange = true ↔ a < Config.witnessLimit ∧ inI64 x = true ∧ inI64 y = true := by
  simp [Work.inRange, and_assoc]

theorem Work.inRange_fermatPow_iff {a : Nat} {acc : Int} {i : Nat} :
    (Work.fermatPow a acc i).inRange = true ↔ a < Config.witnessLimit ∧ inI64 acc = true ∧ i ≤ 62 := by
  simp [Work.inRange, and_assoc]

/-- The new remainder of an iteration of `xgcd`, taken by quotient and product, is the floored remainder. -/
theorem sub_fdiv_mul (a b : Int) : a - a.fdiv b * b = a.fmod b := by rw [Int.fmod_def, mul_comm]

theorem xgcdIter_inRange {v u : EuclidVals} (h : v.inRange = true) (h1 : v.r1 ≠ 0) (hu : xgcdIter v = .ok u) :
    u.inRange = true := by
  obtain ⟨-, hr1, -, hs1, -, ht1, -, hpos⟩ := (EuclidVals.inRange_iff v).1 h
  obtain ⟨-, hs, -, ht, rfl⟩ := xgcdIter_eq_ok_iff.1 hu
  rw [sub_fdiv_mul]
  exact (EuclidVals.inRange_iff _).2
    ⟨hr1, inI64_fmod _ h1 hr1, hs1, hs, ht1, ht, hpos, Int.fmod_nonneg_of_pos _ (by omega)⟩

theorem inRange_start {a b : Int} (ha : 0 ≤ a) (hb : 0 ≤ b) (hai : inI64 a = true) (hbi : inI64 b = true) :
    (EuclidVals.start a b).inRange = true :=
  (EuclidVals.inRange_iff _).2 ⟨hai, hbi, rfl, rfl, rfl, rfl, ha, hb⟩

/-- An iteration of `modpow` ends in a reduction, whose result is in I64 with the modulus. -/
theorem modpowIter_inI64 {base m acc r : Int} {e i : Nat} (hm : inI64 m = true) (h : modpowIter base e m i acc = .ok r) :
    inI64 r = true := by
  obtain ⟨-, h0, h⟩ := modpowIter_eq_ok_iff.1 h
  split at h
  · obtain ⟨-, rfl⟩ := h; exact inI64_fmod _ h0 hm
  · subst h; exact inI64_fmod _ h0 hm

/-- An exponent in I64 has at most 63 bits, 62 below the top one (R109). -/
theorem bitlen_sub_one_le {e : Int} (he : inI64 e = true) (h1 : 1 ≤ e) : bitlen e.toNat - 1 ≤ 62 := by
  rw [inI64_iff] at he
  have hlt : e.toNat.log2 < 63 := (Nat.log2_lt (by omega)).2 (by omega)
  rw [bitlen]
  omega

theorem normalise_inI64 {s m d : Int} (hs : inI64 s = true) (h : normalise s m = .ok d) : inI64 d = true := by
  unfold normalise at h
  split at h
  · cases h; exact hs
  · obtain ⟨hd, rfl⟩ := chk_eq_ok_iff.1 h; exact hd

theorem inI64_witness {a : Nat} (h : a ≤ Config.witnessLimit) : inI64 (a : Int) = true := by
  have hlimit : Config.witnessLimit = 1000000 := rfl
  rw [inI64_iff]
  omega

/-- A turn on operands and working values in I64 leaves working values or results in I64. -/
theorem turn_inRange {o : Operands} {w : Work} (ho : o.inRange = true) (hw : w.inRange = true) :
    (turn o w).Sat (fun w' => w'.inRange = true) (fun out => ∀ r, out = .ok r → r.InRange) := by
  have error {f : CommandFault} : ∀ r, Except.error f = .ok r → Results.InRange r := nofun
  obtain ⟨hoa, hob, hoc⟩ := (Operands.inRange_iff o).1 ho
  cases w with
  | start d =>
    rcases d with (_ | _) | _
    case command.nop => rintro r h; cases h; exact ⟨rfl, rfl, rfl⟩
    case command.emod =>
      rintro r h
      obtain ⟨v, hv, rfl⟩ := runEmod_eq_ok h
      obtain ⟨hb, rfl⟩ := emod_eq_ok_iff.1 hv
      exact ⟨inI64_fmod _ hb hob, rfl, rfl⟩
    case command.modpow =>
      exact modpowBegin_sat (fun _ => error) (fun h => Work.inRange_modpow_iff.2 ⟨hoa, bitlen_sub_one_le hob h⟩)
    case command.gcd => exact signTest_sat (fun _ => error) (fun _ _ => Work.inRange_gcd_iff.2 ⟨hoa, hob⟩)
    case command.xgcd => exact signTest_sat (fun _ => error) (fun ha hb => inRange_start ha hb hoa hob)
    case command.modinv => exact signTest_sat (fun _ => error) (fun ha hb => inRange_start ha hb hoa hob)
    case command.fermat => exact rfl
    case illegal => exact error
  | modpow acc i =>
    obtain ⟨hacc, hi⟩ := Work.inRange_modpow_iff.1 hw
    cases i with
    | zero => rintro r h; cases h; exact ⟨hacc, rfl, rfl⟩
    | succ i =>
      exact Turn.from_sat (fun v hv => Work.inRange_modpow_iff.2 ⟨modpowIter_inI64 hoc hv, by omega⟩) (fun _ _ => error)
  | gcd a b =>
    obtain ⟨ha, hb⟩ := Work.inRange_gcd_iff.1 hw
    rw [turn]
    split
    · rintro r h; cases h; exact ⟨ha, rfl, rfl⟩
    · refine Turn.from_sat (fun v hv => ?_) (fun _ _ => error)
      obtain ⟨h0, rfl⟩ := emod_eq_ok_iff.1 hv
      exact Work.inRange_gcd_iff.2 ⟨hb, inI64_fmod _ h0 hb⟩
  | xgcd v =>
    rw [turn]
    refine xgcdTurn_sat (fun _ => ?_) (fun h1 _ hu => xgcdIter_inRange hw h1 hu) (fun _ _ _ => error)
    obtain ⟨hr, -, hs, -, ht, -⟩ := (EuclidVals.inRange_iff v).1 hw
    rintro r h; cases h; exact ⟨hs, ht, hr⟩
  | modinv v =>
    obtain ⟨hr, -, hs, -⟩ := (EuclidVals.inRange_iff v).1 hw
    rw [turn]
    refine xgcdTurn_sat (fun _ => Turn.from_sat (fun d hd => ?_) (fun _ _ => error))
      (fun h1 _ hu => xgcdIter_inRange hw h1 hu) (fun _ _ _ => error)
    rintro r h; cases h; exact ⟨normalise_inI64 hs hd, rfl, hr⟩
  | fermat a =>
    rw [turn]
    split
    · rintro r h; cases h; exact ⟨rfl, rfl, rfl⟩
    · refine signTest_sat (fun _ => error) (fun _ _ => ?_)
      have ha : a < Config.witnessLimit := by omega
      exact Work.inRange_fermatGcd_iff.2 ⟨ha, inI64_witness ha.le, hoa⟩
  | fermatGcd a x y =>
    obtain ⟨ha, -, hy⟩ := Work.inRange_fermatGcd_iff.1 hw
    rw [turn]
    split
    · split
      · refine Turn.from_sat (fun e he => modpowBegin_sat (fun _ => error) (fun h1 => ?_)) (fun _ _ => error)
        obtain ⟨hin, rfl⟩ := chk_eq_ok_iff.1 he
        exact Work.inRange_fermatPow_iff.2 ⟨ha, inI64_witness ha.le, bitlen_sub_one_le hin h1⟩
      · exact Work.inRange_fermat_iff.2 ha
    · refine Turn.from_sat (fun v hv => ?_) (fun _ _ => error)
      obtain ⟨h0, rfl⟩ := emod_eq_ok_iff.1 hv
      exact Work.inRange_fermatGcd_iff.2 ⟨ha, hy, inI64_fmod _ h0 hy⟩
  | fermatPow a acc i =>
    obtain ⟨ha, hacc, hi⟩ := Work.inRange_fermatPow_iff.1 hw
    cases i with
    | zero =>
      refine Turn.from_sat (fun r _ => ?_) (fun _ _ => error)
      split
      · exact Work.inRange_fermat_iff.2 ha
      · rintro r h; cases h; exact ⟨rfl, inI64_witness ha.le, rfl⟩
    | succ i =>
      exact Turn.from_sat (fun v hv => Work.inRange_fermatPow_iff.2 ⟨ha, modpowIter_inI64 hoa hv, by omega⟩)
        (fun _ _ => error)

end Sys2Proof.Machine
end

section
/-! The stepwise engine against the atomic reading (R96). What is left of a command when its working values are given is again a
function; a turn does not change it, every turn brings the end nearer, so the engine ends with exactly the function's outcome. -/

namespace Sys2Proof.Machine

/-! The bound of a Euclidean loop is never what ends it (log entry 6). -/

theorem natAbs_fmod_lt (a : Int) {b : Int} (h : b ≠ 0) : (a.fmod b).natAbs < b.natAbs := by
  obtain ⟨-, hpos, hneg⟩ := (eq_fmod_iff (a := a) h).1 rfl
  omega

theorem natAbs_r1_lt_of_xgcdIter {v u : EuclidVals} (h : v.r1 ≠ 0) (hu : xgcdIter v = .ok u) :
    u.r1.natAbs < v.r1.natAbs := by
  obtain ⟨-, -, -, -, rfl⟩ := xgcdIter_eq_ok_iff.1 hu
  rw [sub_fdiv_mul]
  exact natAbs_fmod_lt _ h

/-- Any two bounds that reach the second remainder give the same. -/
theorem gcdLoop_fuel {m n : Nat} {a b : Int} (hm : b.natAbs ≤ m) (hn : b.natAbs ≤ n) : gcdLoop m a b = gcdLoop n a b := by
  induction m generalizing n a b with
  | zero =>
    obtain rfl : b = 0 := by omega
    rw [gcdLoop_done, gcdLoop_done]
  | succ m ih =>
    by_cases hb : b = 0
    · rw [hb, gcdLoop_done, gcdLoop_done]
    · obtain ⟨n, rfl⟩ : ∃ k, n = k + 1 := ⟨n - 1, by omega⟩
      have hlt := natAbs_fmod_lt a hb
      rw [gcdLoop_succ_of_ne m a hb, gcdLoop_succ_of_ne n a hb]
      exact ih (by omega) (by omega)

theorem xgcdLoop_fuel {m n : Nat} {v : EuclidVals} (hm : v.r1.natAbs ≤ m) (hn : v.r1.natAbs ≤ n) :
    xgcdLoop m v = xgcdLoop n v := by
  induction m generalizing n v with
  | zero =>
    have h : v.r1 = 0 := by omega
    rw [xgcdLoop_done _ h, xgcdLoop_done _ h]
  | succ m ih =>
    by_cases h : v.r1 = 0
    · rw [xgcdLoop_done _ h, xgcdLoop_done _ h]
    · obtain ⟨n, rfl⟩ : ∃ k, n = k + 1 := ⟨n - 1, by omega⟩
      rw [xgcdLoop_succ_of_ne m h, xgcdLoop_succ_of_ne n h]
      cases hu : xgcdIter v with
      | error f => rfl
      | ok u =>
        have hlt := natAbs_r1_lt_of_xgcdIter h hu
        exact ih (by omega) (by omega)

/-! One witness of FERMAT and the scan from a witness on (R150) -/

/-- The test of a witness once its gcd with `n` is known. -/
def powerTest (n a g : Int) : Except CommandFault Bool :=
  if g = 1 then do
    let e ← chk (n - 1)
    let r ← modpow a e n
    let r ← emod r n
    return r != 1
  else return false

theorem fermatViolates_eq (n a : Int) : fermatViolates n a = gcd a n >>= powerTest n a := rfl

/-- What FERMAT comes to from the head of its loop at witness `a`. -/
def fermatFrom (n : Int) (a : Nat) : Except CommandFault Results := do
  let (v, w) ← fermatScan n (Config.witnessLimit - a) a
  return fermatResults v w

/-- What FERMAT comes to after the test of witness `a`. -/
def afterWitness (n : Int) (a : Nat) (violated : Bool) : Except CommandFault Results :=
  if violated then .ok (fermatResults 0 a) else fermatFrom n (a + 1)

theorem fermatFrom_of_ge (n : Int) {a : Nat} (h : Config.witnessLimit ≤ a) : fermatFrom n a = .ok (fermatResults 1 0) := by
  rw [fermatFrom, Nat.sub_eq_zero_of_le h]
  rfl

theorem fermatScan_succ (n : Int) (count a : Nat) :
    fermatScan n (count + 1) a =
      fermatViolates n a >>= fun violated => if violated then .ok (0, (a : Int)) else fermatScan n count (a + 1) := rfl

theorem fermatFrom_of_lt (n : Int) {a : Nat} (h : a < Config.witnessLimit) :
    fermatFrom n a = fermatViolates n a >>= afterWitness n a := by
  rw [fermatFrom, show Config.witnessLimit - a = Config.witnessLimit - (a + 1) + 1 by omega, fermatScan_succ]
  rcases fermatViolates n a with f | (_ | _) <;> rfl

/-! What is left of a command -/

/-- What `Run` comes to from the given working values on. -/
def Work.outcome (o : Operands) : Work → Except CommandFault Results
  | .start d => commandFunction d o
  | .modpow acc i => do
    let r ← modpowLoop o.a o.b.toNat o.c i acc
    return ⟨r, 0, 0, false, false⟩
  | .gcd a b => do
    let g ← gcdLoop b.natAbs a b
    return gcdResults g
  | .xgcd v => do
    let v ← xgcdLoop v.r1.natAbs v
    return xgcdResults v
  | .modinv v => do
    let v ← xgcdLoop v.r1.natAbs v
    let d ← normalise v.s0 o.b
    return modinvResults d v.r0
  | .fermat a => fermatFrom o.a a
  | .fermatGcd a x y => do
    let g ← gcdLoop y.natAbs x y
    let violated ← powerTest o.a a g
    afterWitness o.a a violated
  | .fermatPow a acc i => do
    let r ← modpowLoop a (o.a - 1).toNat o.a i acc
    let r ← emod r o.a
    afterWitness o.a a (r != 1)

theorem modpow_of_lt_one {base e m : Int} (h : e < 1) : modpow base e m = .error .exponentRange := if_pos h

theorem modpow_of_one_le {base e m : Int} (h : 1 ≤ e) :
    modpow base e m = modpowLoop base e.toNat m (bitlen e.toNat - 1) base := if_neg (by omega)

theorem gcdLoop_natAbs_of_ne (a : Int) {b : Int} (h : b ≠ 0) :
    gcdLoop b.natAbs a b = gcdLoop (a.fmod b).natAbs b (a.fmod b) := by
  obtain ⟨n, hn⟩ : ∃ n, b.natAbs = n + 1 := ⟨b.natAbs - 1, by omega⟩
  have hlt := natAbs_fmod_lt a h
  rw [hn, gcdLoop_succ_of_ne n a h, gcdLoop_fuel (by omega) le_rfl]

theorem xgcdLoop_natAbs_of_ok {v u : EuclidVals} (h : v.r1 ≠ 0) (hu : xgcdIter v = .ok u) :
    xgcdLoop v.r1.natAbs v = xgcdLoop u.r1.natAbs u := by
  obtain ⟨n, hn⟩ : ∃ n, v.r1.natAbs = n + 1 := ⟨v.r1.natAbs - 1, by omega⟩
  have hlt := natAbs_r1_lt_of_xgcdIter h hu
  rw [hn, xgcdLoop_succ_of_ne n h, hu, bind_ok, xgcdLoop_fuel (by omega) le_rfl]

theorem xgcdLoop_natAbs_of_error {v : EuclidVals} {f : CommandFault} (h : v.r1 ≠ 0) (hf : xgcdIter v = .error f) :
    xgcdLoop v.r1.natAbs v = .error f := by
  obtain ⟨n, hn⟩ : ∃ n, v.r1.natAbs = n + 1 := ⟨v.r1.natAbs - 1, by omega⟩
  rw [hn, xgcdLoop_succ_of_ne n h, hf, bind_error]

theorem gcd_of_nonneg_eq_loop {a b : Int} (ha : 0 ≤ a) (hb : 0 ≤ b) : gcd a b = gcdLoop b.natAbs a b := by
  rw [gcd, if_neg (by omega)]
  exact gcdLoop_fuel (by omega) le_rfl

theorem xgcd_of_nonneg_eq_loop {a b : Int} (ha : 0 ≤ a) (hb : 0 ≤ b) :
    xgcd a b = xgcdLoop b.natAbs (.start a b) := by
  rw [xgcd, if_neg (by omega)]
  exact xgcdLoop_fuel (show b.natAbs ≤ _ by omega) le_rfl

theorem xgcd_of_neg {a b : Int} (h : a < 0 ∨ b < 0) : xgcd a b = .error .operandRange := if_pos h

/-- The beginning of a command leaves all of its function to do. -/
theorem beginTurn_outcome (o : Operands) (d : Decoded) :
    (beginTurn o d).Sat (fun w => w.outcome o = commandFunction d o) (fun out => out = commandFunction d o) := by
  rcases d with (_ | _) | _
  case command.nop => exact rfl
  case command.emod => exact rfl
  case command.modpow =>
    refine modpowBegin_sat (fun h => ?_) (fun h => ?_)
    · rw [commandFunction, runModpow, modpow_of_lt_one h]; rfl
    · rw [commandFunction, runModpow, modpow_of_one_le h]; rfl
  case command.gcd =>
    refine signTest_sat (fun h => ?_) (fun ha hb => ?_)
    · rw [commandFunction, runGcd, gcd_of_neg h]; rfl
    · rw [commandFunction, runGcd, gcd_of_nonneg_eq_loop ha hb]; rfl
  case command.xgcd =>
    refine signTest_sat (fun h => ?_) (fun ha hb => ?_)
    · rw [commandFunction, runXgcd, xgcd_of_neg h]; rfl
    · rw [commandFunction, runXgcd, xgcd_of_nonneg_eq_loop ha hb]; rfl
  case command.modinv =>
    refine signTest_sat (fun h => ?_) (fun ha hb => ?_)
    · rw [commandFunction, runModinv, modinv, xgcd_of_neg h]; rfl
    · rw [commandFunction, runModinv, modinv, xgcd_of_nonneg_eq_loop ha hb]
      simp only [bind_assoc, pure_bind]; rfl
  case command.fermat => exact rfl
  case illegal => exact rfl

/-- A turn leaves what the command comes to, or ends with it. -/
theorem turn_outcome (o : Operands) (w : Work) :
    (turn o w).Sat (fun w' => w'.outcome o = w.outcome o) (fun out => out = w.outcome o) := by
  cases w with
  | start d => exact beginTurn_outcome o d
  | modpow acc i =>
    cases i with
    | zero => exact rfl
    | succ i =>
      refine Turn.from_sat (fun v hv => ?_) (fun f hf => ?_)
      · simp only [Turn.Sat, Work.outcome, modpowLoop_succ, hv, bind_ok]
      · simp only [Work.outcome, modpowLoop_succ, hf, bind_error]
  | gcd a b =>
    rw [turn]
    split
    case isTrue h => subst h; exact rfl
    case isFalse h =>
      rw [emod_of_ne a h]
      simp only [Turn.from, Turn.Sat, Work.outcome, gcdLoop_natAbs_of_ne a h]
  | xgcd v =>
    rw [turn]
    refine xgcdTurn_sat (fun h => ?_) (fun h u hu => ?_) (fun h f hf => ?_)
    · simp only [Turn.Sat, Work.outcome, xgcdLoop_done _ h]; rfl
    · simp only [Work.outcome, xgcdLoop_natAbs_of_ok h hu]
    · simp only [Work.outcome, xgcdLoop_natAbs_of_error h hf, bind_error]
  | modinv v =>
    rw [turn]
    refine xgcdTurn_sat (fun h => ?_) (fun h u hu => ?_) (fun h f hf => ?_)
    · simp only [Work.outcome, xgcdLoop_done _ h, bind_ok]
      exact Turn.from_sat (fun d hd => by rw [hd]; rfl) (fun f hf => by rw [hf]; rfl)
    · simp only [Work.outcome, xgcdLoop_natAbs_of_ok h hu]
    · simp only [Work.outcome, xgcdLoop_natAbs_of_error h hf, bind_error]
  | fermat a =>
    rw [turn]
    split
    case isTrue h => exact (fermatFrom_of_ge o.a h).symm
    case isFalse h =>
      simp only [Work.outcome, fermatFrom_of_lt o.a (not_le.1 h), fermatViolates_eq]
      refine signTest_sat (fun h => ?_) (fun ha hb => ?_)
      · rw [gcd_of_neg h]; rfl
      · rw [gcd_of_nonneg_eq_loop ha hb, bind_assoc]
  | fermatGcd a x y =>
    rw [turn]
    split
    case isTrue h =>
      subst h
      simp only [Work.outcome, gcdLoop_done, bind_ok, powerTest]
      split
      · refine Turn.from_sat (fun e he => modpowBegin_sat (fun h => ?_) (fun h => ?_)) (fun f hf => ?_)
        · rw [he, bind_ok, modpow_of_lt_one h]; rfl
        · obtain ⟨-, rfl⟩ := chk_eq_ok_iff.1 he
          rw [he, bind_ok, modpow_of_one_le h, bind_assoc]
          simp only [bind_assoc, pure_bind]
        · rw [hf]; rfl
      · exact rfl
    case isFalse h =>
      rw [emod_of_ne x h]
      simp only [Turn.from, Turn.Sat, Work.outcome, gcdLoop_natAbs_of_ne x h]
  | fermatPow a acc i =>
    cases i with
    | zero =>
      refine Turn.from_sat (fun r hr => ?_) (fun f hf => ?_)
      · simp only [Work.outcome, modpowLoop_zero, bind_ok, hr]
        split
        case isTrue h => subst h; exact rfl
        case isFalse h => simp only [Turn.Sat, afterWitness, bne_iff_ne.2 h, if_true]
      · simp only [Work.outcome, modpowLoop_zero, bind_ok, hf, bind_error]
    | succ i =>
      refine Turn.from_sat (fun v hv => ?_) (fun f hf => ?_)
      · simp only [Turn.Sat, Work.outcome, modpowLoop_succ, hv, bind_ok]
      · simp only [Work.outcome, modpowLoop_succ, hf, bind_error]

/-! The engine always ends -/

/-- How far working values are from the end: witnesses to come, the stage within a witness, iterations to come. -/
def Work.rank : Work → ℕ ×ₗ ℕ ×ₗ ℕ
  | .start _ => toLex (Config.witnessLimit + 1, toLex (0, 0))
  | .modpow _ i => toLex (0, toLex (0, i))
  | .gcd _ b => toLex (0, toLex (0, b.natAbs))
  | .xgcd v => toLex (0, toLex (0, v.r1.natAbs))
  | .modinv v => toLex (0, toLex (0, v.r1.natAbs))
  | .fermat a => toLex (Config.witnessLimit - a, toLex (if a < Config.witnessLimit then 3 else 0, 0))
  | .fermatGcd a _ y => toLex (Config.witnessLimit - a, toLex (2, y.natAbs))
  | .fermatPow a _ i => toLex (Config.witnessLimit - a, toLex (1, i))

theorem lex_lt_iff {a b c a' b' c' : ℕ} :
    (toLex (a, toLex (b, c)) : ℕ ×ₗ ℕ ×ₗ ℕ) < toLex (a', toLex (b', c')) ↔
      a < a' ∨ a = a' ∧ (b < b' ∨ b = b' ∧ c < c') := by
  rw [Prod.Lex.toLex_lt_toLex, Prod.Lex.toLex_lt_toLex]

/-- Leaving a witness for the next one. -/
theorem rank_fermat_succ_lt (a b c : ℕ) :
    (Work.fermat (a + 1)).rank < toLex (Config.witnessLimit - a, toLex (b + 1, c)) := by
  rw [Work.rank, lex_lt_iff]
  split <;> omega

theorem turn_rank_lt (o : Operands) (w : Work) : (turn o w).Sat (fun w' => w'.rank < w.rank) (fun _ => True) := by
  have hlimit : 0 < Config.witnessLimit := by decide
  cases w with
  | start d =>
    have below {w : Work} {a b : ℕ} {c : ℕ} (hw : w.rank = toLex (a, toLex (b, c))) (ha : a ≤ Config.witnessLimit) :
        w.rank < (Work.start d).rank := by
      rw [hw, Work.rank, lex_lt_iff]; omega
    rcases d with (_ | _) | _
    case command.nop => exact trivial
    case command.emod => exact trivial
    case command.modpow => exact modpowBegin_sat (fun _ => trivial) (fun _ => below rfl (Nat.zero_le _))
    case command.gcd => exact signTest_sat (fun _ => trivial) (fun _ _ => below rfl (Nat.zero_le _))
    case command.xgcd => exact signTest_sat (fun _ => trivial) (fun _ _ => below rfl (Nat.zero_le _))
    case command.modinv => exact signTest_sat (fun _ => trivial) (fun _ _ => below rfl (Nat.zero_le _))
    case command.fermat => exact below rfl (Nat.sub_le _ _)
    case illegal => exact trivial
  | modpow acc i =>
    cases i with
    | zero => exact trivial
    | succ i => exact Turn.from_sat (fun _ _ => lex_lt_iff.2 (by omega)) (fun _ _ => trivial)
  | gcd a b =>
    rw [turn]
    split
    · exact trivial
    · rw [emod_of_ne a ‹_›]
      exact lex_lt_iff.2 (by simpa using natAbs_fmod_lt a ‹_›)
  | xgcd v =>
    rw [turn]
    exact xgcdTurn_sat (fun _ => trivial)
      (fun h u hu => lex_lt_iff.2 (by simpa using natAbs_r1_lt_of_xgcdIter h hu)) (fun _ _ _ => trivial)
  | modinv v =>
    rw [turn]
    exact xgcdTurn_sat (fun _ => Turn.from_sat (fun _ _ => trivial) (fun _ _ => trivial))
      (fun h u hu => lex_lt_iff.2 (by simpa using natAbs_r1_lt_of_xgcdIter h hu)) (fun _ _ _ => trivial)
  | fermat a =>
    rw [turn]
    split
    · exact trivial
    · refine signTest_sat (fun _ => trivial) (fun _ _ => lex_lt_iff.2 ?_)
      rw [if_pos (by omega)]
      omega
  | fermatGcd a x y =>
    rw [turn]
    split
    · split
      · exact Turn.from_sat (fun _ _ => modpowBegin_sat (fun _ => trivial) (fun _ => lex_lt_iff.2 (by omega)))
          (fun _ _ => trivial)
      · exact rank_fermat_succ_lt a 1 _
    · rw [emod_of_ne x ‹_›]
      exact lex_lt_iff.2 (by simpa using natAbs_fmod_lt x ‹_›)
  | fermatPow a acc i =>
    cases i with
    | zero =>
      refine Turn.from_sat (fun _ _ => ?_) (fun _ _ => trivial)
      split
      · exact rank_fermat_succ_lt a 0 _
      · exact trivial
    | succ i => exact Turn.from_sat (fun _ _ => lex_lt_iff.2 (by omega)) (fun _ _ => trivial)

/-- `n` turns from the given working values end `Run` with `out`. -/
inductive Ends (o : Operands) : Work → Nat → Except CommandFault Results → Prop
  | last {w : Work} {out : Except CommandFault Results} (h : turn o w = .ended out) : Ends o w 1 out
  | more {w w' : Work} {n : Nat} {out : Except CommandFault Results} (h : turn o w = .goOn w') (hr : Ends o w' n out) :
    Ends o w (n + 1) out

theorem Ends.pos {o : Operands} {w : Work} {n : Nat} {out : Except CommandFault Results} (h : Ends o w n out) : 1 ≤ n := by
  cases h <;> omega

/-- The engine ends with what is left of the command. -/
theorem Ends.out_eq {o : Operands} {w : Work} {n : Nat} {out : Except CommandFault Results} (h : Ends o w n out) :
    out = w.outcome o := by
  induction h with
  | last h => exact (turn_outcome o _).of_ended h
  | more h _ ih => exact ih.trans ((turn_outcome o _).of_goOn h)

/-- From any working values the engine ends. -/
theorem exists_ends (o : Operands) (w : Work) : ∃ n out, Ends o w n out := by
  induction hr : w.rank using WellFoundedLT.induction generalizing w with
  | ind r ih =>
    subst hr
    cases ht : turn o w with
    | ended out => exact ⟨1, out, .last ht⟩
    | goOn w' =>
      obtain ⟨n, out, h⟩ := ih _ ((turn_rank_lt o w).of_goOn ht) w' rfl
      exact ⟨n + 1, out, .more ht h⟩

/-- A property of ended turns that rests on an invariant of the working values holds of what the command comes to. -/
theorem outcome_of_turn_sat {o : Operands} {P : Work → Prop} {Q : Except CommandFault Results → Prop}
    (hturn : ∀ w, P w → (turn o w).Sat P Q) {w : Work} (hw : P w) : Q (w.outcome o) := by
  obtain ⟨n, out, h⟩ := exists_ends o w
  rw [← h.out_eq]
  induction h with
  | last h => exact (hturn _ hw).of_ended h
  | more h _ ih => exact ih ((hturn _ hw).of_goOn h)

/-- A fault-free command sets the flags as its kind says. -/
theorem commandFunction_flags {d : Decoded} {o : Operands} {r : Results} (h : commandFunction d o = .ok r) :
    r.FlagsOf d :=
  outcome_of_turn_sat (P := fun w => w.command = d) (Q := fun out => ∀ r, out = .ok r → r.FlagsOf d)
    (fun w hw => hw ▸ turn_command o w) (w := .start d) rfl r h

/-- A fault-free command on operands in I64 has results in I64 (R94). -/
theorem commandFunction_inRange {d : Decoded} {o : Operands} {r : Results} (ho : o.inRange = true)
    (h : commandFunction d o = .ok r) : r.InRange :=
  outcome_of_turn_sat (P := fun w => w.inRange = true) (Q := fun out => ∀ r, out = .ok r → r.InRange)
    (fun _ hw => turn_inRange ho hw) (w := .start d) rfl r h

end Sys2Proof.Machine
end

section
/-! The invariants of a step (files 10 and 41). A step is inverted once, up to the host's side of the port; each invariant is then a
statement about what acceptance, a turn of the engine and the end of a command leave. -/

namespace Sys2Proof.Machine

/-! What a step does to the block -/

theorem State.SameBlock.opa {s t : State} (h : s.SameBlock t) : s.opa = t.opa := have ⟨ha, _⟩ := h; ha
theorem State.SameBlock.opb {s t : State} (h : s.SameBlock t) : s.opb = t.opb := have ⟨_, hb, _⟩ := h; hb
theorem State.SameBlock.opc {s t : State} (h : s.SameBlock t) : s.opc = t.opc := have ⟨_, _, hc, _⟩ := h; hc

/-- Two states that agree on the block and on the host's side are the same. -/
theorem State.SameBlock.eq {s t : State} (h : s.SameBlock t) (hs : s.script = t.script)
    (ht : s.transcript = t.transcript) : s = t := by
  obtain ⟨h1, h2, h3, h4, h5, h6, h7, h8, h9⟩ := h
  cases s; cases t
  simp_all

/-- All a step in IDLE can do to the block. -/
theorem step_idle_cases {s t : State} (hi : s.phase = .idle) (h : step s = .next t) :
    t.SameBlock s ∨
    (∃ w rest, s.script = .write 0 w :: rest ∧ t.SameBlock { s with opa := w }) ∨
    (∃ w rest, s.script = .write 1 w :: rest ∧ t.SameBlock { s with opb := w }) ∨
    (∃ w rest, s.script = .write 2 w :: rest ∧ t.SameBlock { s with opc := w }) ∨
    (∃ w rest, s.script = .write 3 w :: rest ∧
      t.SameBlock (State.execute (commandFunction (decode w)) { s with cmd := w })) ∨
    (∃ rest, s.script = .rst :: rest ∧ t.SameBlock State.reset) ∨
    (∃ w rest, s.script = .launch w :: rest ∧ t.SameBlock (State.launch w { s with cmd := w })) := by
  have same (u : State) : u.SameBlock u := ⟨rfl, rfl, rfl, rfl, rfl, rfl, rfl, rfl, rfl⟩
  rcases hs : s.script with _ | ⟨a, rest⟩
  · obtain rfl := Host.Outcome.next.inj ((step_idle_nil hi hs).symm.trans h)
    exact .inl (same s)
  rw [step_idle_cons hi hs] at h
  rcases hostAct_cases h with ⟨r, ht⟩ | ⟨w, rfl, ht⟩ | ⟨w, rfl, ht⟩ | ⟨w, rfl, ht⟩ | ⟨w, rfl, ht⟩ | ⟨rfl, ht⟩ |
    ⟨w, rfl, ht⟩ | ⟨rfl, ht⟩
  case _ => cases ht; exact .inl (same s)
  case _ => cases ht; exact .inr (.inl ⟨w, rest, rfl, same _⟩)
  case _ => cases ht; exact .inr (.inr (.inl ⟨w, rest, rfl, same _⟩))
  case _ => cases ht; exact .inr (.inr (.inr (.inl ⟨w, rest, rfl, same _⟩)))
  case _ =>
    rw [commandWrite_eq_execute] at ht
    cases ht
    exact .inr (.inr (.inr (.inr (.inl ⟨w, rest, rfl, execute_sameBlock _ rfl rfl rfl rfl rfl⟩))))
  case _ => cases ht; exact .inr (.inr (.inr (.inr (.inr (.inl ⟨rest, rfl, same _⟩)))))
  case _ => cases ht; exact .inr (.inr (.inr (.inr (.inr (.inr ⟨w, rest, rfl, same _⟩)))))
  case _ => cases ht; exact .inl (same s)

/-- The phase of the state a command ends in does not depend on where the engine stood. -/
theorem State.finish_sameBlock (out : Except CommandFault Results) (s : State) (script : List HostAction) (p : Phase) :
    State.SameBlock (State.finish out { s with script := script, phase := p }) (s.finish out) := by
  cases out <;> exact ⟨rfl, rfl, rfl, rfl, rfl, rfl, rfl, rfl, rfl⟩

/-- All a step in RUN can do to the block. -/
theorem step_run_cases {s t : State} {e : Engine} (hr : s.phase = .run e) (h : step s = .next t) :
    (∃ rest, s.script = .rst :: rest ∧ t.SameBlock State.reset) ∨
    (∃ w, turn e.operands e.work = .goOn w ∧ t.SameBlock { s with phase := .run { e with work := w } }) ∨
    (∃ out, turn e.operands e.work = .ended out ∧ t.SameBlock (s.finish out)) := by
  obtain rfl := Host.Outcome.next.inj ((step_run hr).symm.trans h)
  have engine (script : List HostAction) (u : State) (hu : u = State.engineStep e { s with script := script }) :
      (∃ w, turn e.operands e.work = .goOn w ∧ u.SameBlock { s with phase := .run { e with work := w } }) ∨
      (∃ out, turn e.operands e.work = .ended out ∧ u.SameBlock (s.finish out)) := by
    subst hu
    rcases engineStep_cases e { s with script := script } with ⟨w, ht, hw⟩ | ⟨out, ht, hout⟩
    · rw [hw]
      exact .inl ⟨w, ht, rfl, rfl, rfl, rfl, rfl, rfl, rfl, rfl, rfl⟩
    · rw [hout]
      exact .inr ⟨out, ht, State.finish_sameBlock out s script s.phase⟩
  rcases runStep_cases e s with ⟨rest, hs, ht⟩ | ⟨rest, -, ht⟩ | ⟨-, ht⟩
  · rw [ht]
    exact .inl ⟨rest, hs, rfl, rfl, rfl, rfl, rfl, rfl, rfl, rfl, rfl⟩
  · exact .inr (engine rest _ ht)
  · exact .inr (engine s.script _ ht)

/-! The three invariants speak of the block alone -/

theorem State.inv_idle {s : State} (h : s.phase = .idle) : s.Inv ↔ s.Observable := by rw [State.Inv, h]

theorem State.inv_run {s : State} {e : Engine} (h : s.phase = .run e) : s.Inv ↔ s.Running e := by rw [State.Inv, h]

theorem State.statusListed_idle {s : State} (h : s.phase = .idle) : s.StatusListed ↔ s.status ∈ statusValues := by
  rw [State.StatusListed, h]

theorem State.statusListed_run {s : State} {e : Engine} (h : s.phase = .run e) :
    s.StatusListed ↔ s.status = 0#64 ∨ s.status = 1#64 := by rw [State.StatusListed, h]

theorem State.valuesInRange_idle {s : State} (h : s.phase = .idle) : s.ValuesInRange := by
  rw [State.ValuesInRange, h]; trivial

theorem State.valuesInRange_run {s : State} {e : Engine} (h : s.phase = .run e) :
    s.ValuesInRange ↔ e.operands.inRange = true ∧ e.work.inRange = true := by rw [State.ValuesInRange, h]

theorem State.SameBlock.inv {s t : State} (h : s.SameBlock t) (ht : t.Inv) : s.Inv := by
  obtain ⟨h1, h2, h3, h4, h5, h6, h7, h8, h9⟩ := h
  simpa only [State.Inv, State.Observable, State.Running, State.sample, h1, h2, h3, h4, h5, h6, h7, h8, h9] using ht

theorem State.SameBlock.statusListed {s t : State} (h : s.SameBlock t) (ht : t.StatusListed) : s.StatusListed := by
  obtain ⟨-, -, -, -, hstatus, -, -, -, hphase⟩ := h
  simpa only [State.StatusListed, hstatus, hphase] using ht

theorem State.SameBlock.valuesInRange {s t : State} (h : s.SameBlock t) (ht : t.ValuesInRange) : s.ValuesInRange := by
  obtain ⟨-, -, -, -, -, -, -, -, hphase⟩ := h
  simpa only [State.ValuesInRange, hphase] using ht

/-! Acceptance and the end of a command, seen from STATUS -/

/-- Acceptance leaves DONE alone in STATUS (R92). -/
theorem statusAccept_eq {v : Word} (h : statusReserved v = 0#56) : statusAccept v = 0#64 ∨ statusAccept v = 1#64 := by
  cases hd : statusDone v
  · refine .inl (status_ext ?_ ?_ ?_ ?_ ?_ ?_) <;> simp [hd, h] <;> decide
  · refine .inr (status_ext ?_ ?_ ?_ ?_ ?_ ?_) <;> simp [hd, h] <;> decide

/-- What acceptance leaves in STATUS and the results (R92). -/
def State.Cleared (s : State) : Prop :=
  (s.status = 0#64 ∨ s.status = 1#64) ∧ s.res0 = 0#64 ∧ s.res1 = 0#64 ∧ s.res2 = 0#64

theorem State.accept_cleared {s : State} (h : statusReserved s.status = 0#56) : s.accept.Cleared :=
  ⟨statusAccept_eq h, rfl, rfl, rfl⟩

/-- PRIME is FERMAT's alone (R27). -/
theorem Results.FlagsOf.prime_iff {r : Results} {i : Instr} (h : r.FlagsOf (.command i)) :
    r.prime = true ↔ i = .fermat ∧ r.r0 = 1 := by
  cases i with
  | fermat => obtain ⟨hp, -⟩ := h; simp [hp]
  | _ => obtain ⟨hp, -⟩ := h; simp [hp]

/-- COPRIME belongs to the Euclidean commands, by the result that holds the divisor (R27). -/
theorem Results.FlagsOf.coprime_iff {r : Results} {i : Instr} (h : r.FlagsOf (.command i)) :
    r.coprime = true ↔ i = .gcd ∧ r.r0 = 1 ∨ (i = .xgcd ∨ i = .modinv) ∧ r.r2 = 1 := by
  cases i with
  | fermat => obtain ⟨-, hc, -⟩ := h; simp [hc]
  | _ => obtain ⟨-, hc⟩ := h; simp [hc]

theorem Results.FlagsOf.of_prime {r : Results} {d : Decoded} (h : r.FlagsOf d) (hp : r.prime = true) :
    r.coprime = false ∧ r.r0 = 1 ∧ r.r1 = 0 ∧ r.r2 = 0 := by
  cases d with
  | illegal why => exact h.elim
  | command i =>
    obtain ⟨rfl, h0⟩ := h.prime_iff.1 hp
    obtain ⟨-, hc, h1, h2⟩ := h
    exact ⟨hc, h0, h1 h0, h2⟩

theorem Results.FlagsOf.of_coprime {r : Results} {w : Word} (h : r.FlagsOf (decode w)) (hc : r.coprime = true) :
    (opField w = 3 ∧ r.r0 = 1) ∨ ((opField w = 4 ∨ opField w = 5) ∧ r.r2 = 1) := by
  cases hd : decode w with
  | illegal why => rw [hd] at h; exact h.elim
  | command i =>
    rw [hd] at h
    rw [eq_encode_of_decode hd]
    rcases h.coprime_iff.1 hc with ⟨rfl, h0⟩ | ⟨rfl | rfl, h2⟩
    exacts [.inl ⟨rfl, h0⟩, .inr ⟨.inl rfl, h2⟩, .inr ⟨.inr rfl, h2⟩]

theorem CommandFault.code_bounds (f : CommandFault) : 1 ≤ f.code.toNat ∧ f.code.toNat ≤ 5 := by cases f <;> decide

/-- A fault-free end that sets the command's flags meets the invariants of R28. -/
theorem observable_complete {s : State} {r : Results} (hs : s.Cleared) (hr : r.FlagsOf (decode s.cmd)) :
    (s.complete r).Observable := by
  obtain ⟨hstatus, -, -, -⟩ := hs
  have herr : statusErr s.status = false := by rcases hstatus with h | h <;> rw [h] <;> decide
  have hcode : statusErrcode s.status = 0#4 := by rcases hstatus with h | h <;> rw [h] <;> decide
  have hreserved : statusReserved s.status = 0#56 := by rcases hstatus with h | h <;> rw [h] <;> decide
  simp only [State.Observable, State.complete_status, State.complete_res0, State.complete_res1, State.complete_res2,
    State.complete_cmd, statusReserved_complete, statusErr_complete, statusErrcode_complete, statusPrime_complete,
    statusCoprime_complete, statusDone_complete, herr, hcode, hreserved]
  refine ⟨trivial, fun _ => trivial, nofun, nofun, fun hp => ?prime, nofun, fun hc => ?coprime⟩
  case prime =>
    obtain ⟨hc, h0, h1, h2⟩ := hr.of_prime hp
    simp [hc, h0, h1, h2]
  case coprime => exact (hr.of_coprime hc).imp (.imp_right fun h => by rw [h, toBits_one]) (.imp_right fun h => by rw [h, toBits_one])

/-- A recorded fault meets the invariants of R28. -/
theorem observable_takeFault {s : State} (hs : s.Cleared) (f : CommandFault) : (s.takeFault f).Observable := by
  obtain ⟨hstatus, h0, h1, h2⟩ := hs
  have hprime : statusPrime s.status = false := by rcases hstatus with h | h <;> rw [h] <;> decide
  have hcoprime : statusCoprime s.status = false := by rcases hstatus with h | h <;> rw [h] <;> decide
  have hreserved : statusReserved s.status = 0#56 := by rcases hstatus with h | h <;> rw [h] <;> decide
  simp only [State.Observable, State.takeFault_status, State.takeFault_res0, State.takeFault_res1, State.takeFault_res2,
    State.takeFault_cmd, statusReserved_fault, statusErr_fault, statusErrcode_fault, statusPrime_fault,
    statusCoprime_fault, statusDone_fault, hprime, hcoprime, hreserved, h0, h1, h2]
  exact ⟨trivial, nofun, fun _ => f.code_bounds, fun _ => ⟨trivial, trivial, trivial, trivial, trivial⟩, nofun, nofun, nofun⟩

/-- Either end of a command meets the invariants of R28. -/
theorem observable_finish {s : State} {out : Except CommandFault Results} (hs : s.Cleared)
    (hout : ∀ r, out = .ok r → r.FlagsOf (decode s.cmd)) : (s.finish out).Observable := by
  cases out with
  | ok r => exact observable_complete hs (hout r rfl)
  | error f => exact observable_takeFault hs f

theorem State.finish_phase (out : Except CommandFault Results) (s : State) : (s.finish out).phase = .idle := by
  cases out <;> rfl

/-- After acceptance the status a command ends with is one of the nine (R29), as it never raises both flags. -/
theorem finish_status_listed {s : State} {out : Except CommandFault Results} {d : Decoded}
    (hs : s.status = 0#64 ∨ s.status = 1#64) (hout : ∀ r, out = .ok r → r.FlagsOf d) :
    (s.finish out).status ∈ statusValues := by
  cases out with
  | ok r =>
    have hnot : ¬(r.prime = true ∧ r.coprime = true) := by
      rintro ⟨hp, hc⟩
      rw [((hout r rfl).of_prime hp).1] at hc
      cases hc
    rw [State.finish_ok, State.complete_status]
    generalize r.prime = p at hnot ⊢
    generalize r.coprime = c at hnot ⊢
    have table : ∀ p c : Bool, ¬(p = true ∧ c = true) →
        statusComplete 0#64 p c ∈ statusValues ∧ statusComplete 1#64 p c ∈ statusValues := by decide
    rcases hs with h | h <;> rw [h]
    exacts [(table p c hnot).1, (table p c hnot).2]
  | error f =>
    rw [State.finish_error, State.takeFault_status]
    rcases hs with h | h <;> rw [h] <;> cases f <;> decide

theorem statusReserved_of_listed {v : Word} (h : v ∈ statusValues) : statusReserved v = 0#56 := by
  simp only [statusValues, List.mem_cons, List.not_mem_nil, or_false] at h
  rcases h with rfl | rfl | rfl | rfl | rfl | rfl | rfl | rfl | rfl <;> decide

theorem State.reset_observable : State.reset.Observable := by
  show State.Observable _
  decide

/-! The obligations -/

theorem inv_of_step {s t : State} (hinv : s.Inv) (h : step s = .next t) : t.Inv := by
  cases hp : s.phase with
  | idle =>
    have hobs := (State.inv_idle hp).1 hinv
    have hcleared : State.Cleared (State.accept s) := State.accept_cleared hobs.1
    have observed {u : State} (hu : u.phase = .idle) (ho : u.Observable) : u.Inv := (State.inv_idle hu).2 ho
    rcases step_idle_cases hp h with ht | ⟨w, -, -, ht⟩ | ⟨w, -, -, ht⟩ | ⟨w, -, -, ht⟩ | ⟨w, -, -, ht⟩ | ⟨-, -, ht⟩ |
      ⟨w, -, -, ht⟩ <;> refine ht.inv ?_
    case _ => exact hinv
    case _ => exact observed hp hobs
    case _ => exact observed hp hobs
    case _ => exact observed hp hobs
    case _ => exact observed (State.finish_phase _ _) (observable_finish hcleared fun r hr => commandFunction_flags hr)
    case _ => exact observed rfl State.reset_observable
    case _ =>
      obtain ⟨hstatus, h0, h1, h2⟩ := hcleared
      exact (State.inv_run rfl).2 ⟨hstatus, h0, h1, h2, rfl, beq_self_eq_true _⟩
  | run e =>
    obtain ⟨hstatus, h0, h1, h2, hops, hruns⟩ := (State.inv_run hp).1 hinv
    have hcmd := (Work.runs_iff _ _).1 hruns
    rcases step_run_cases hp h with ⟨-, -, ht⟩ | ⟨w, hturn, ht⟩ | ⟨out, hturn, ht⟩ <;> refine ht.inv ?_
    case _ => exact (State.inv_idle rfl).2 State.reset_observable
    case _ =>
      have hw := (turn_command _ _).of_goOn hturn
      exact (State.inv_run (e := ⟨e.operands, w⟩) rfl).2 ⟨hstatus, h0, h1, h2, hops, (Work.runs_iff _ _).2 (hcmd.trans hw.symm)⟩
    case _ =>
      have hflags := (turn_command _ _).of_ended hturn
      rw [← hcmd] at hflags
      exact (State.inv_idle (State.finish_phase _ _)).2 (observable_finish ⟨hstatus, h0, h1, h2⟩ hflags)

/-- Settles O5: acceptance clears, a turn stays with the command, and either end of the command sets the flags that R28 allows. -/
theorem everyStepKeepsTheStateInvariant : Obligations.EveryStepKeepsTheStateInvariant := fun _ _ hinv h =>
  ⟨inv_of_step hinv h, fun hi => (State.inv_idle hi).1 (inv_of_step hinv h)⟩

/-- Settles O6: STATUS changes only at acceptance, at the end of a command and at reset. -/
theorem everyStepKeepsStatusAmongNineValues : Obligations.EveryStepKeepsStatusAmongNineValues := by
  intro s t hlisted h
  have hreset : State.reset.StatusListed := (State.statusListed_idle rfl).2 (by decide)
  have finished {u : State} {out : Except CommandFault Results} {d : Decoded} (hu : u.status = 0#64 ∨ u.status = 1#64)
      (hout : ∀ r, out = .ok r → r.FlagsOf d) : (u.finish out).StatusListed :=
    (State.statusListed_idle (State.finish_phase _ _)).2 (finish_status_listed hu hout)
  cases hp : s.phase with
  | idle =>
    have hmem := (State.statusListed_idle hp).1 hlisted
    have haccept := statusAccept_eq (statusReserved_of_listed hmem)
    rcases step_idle_cases hp h with ht | ⟨w, -, -, ht⟩ | ⟨w, -, -, ht⟩ | ⟨w, -, -, ht⟩ | ⟨w, -, -, ht⟩ | ⟨-, -, ht⟩ |
      ⟨w, -, -, ht⟩ <;> refine ht.statusListed ?_
    case _ => exact hlisted
    case _ => exact (State.statusListed_idle hp).2 hmem
    case _ => exact (State.statusListed_idle hp).2 hmem
    case _ => exact (State.statusListed_idle hp).2 hmem
    case _ => exact finished haccept fun r hr => commandFunction_flags hr
    case _ => exact hreset
    case _ => exact (State.statusListed_run rfl).2 haccept
  | run e =>
    have hstatus := (State.statusListed_run hp).1 hlisted
    rcases step_run_cases hp h with ⟨-, -, ht⟩ | ⟨w, -, ht⟩ | ⟨out, hturn, ht⟩ <;> refine ht.statusListed ?_
    case _ => exact hreset
    case _ => exact (State.statusListed_run rfl).2 hstatus
    case _ => exact finished hstatus ((turn_command _ _).of_ended hturn)

/-- Settles O7: acceptance samples operands in I64, and a turn keeps the ranges. -/
theorem everyStepKeepsWorkingValuesInI64 : Obligations.EveryStepKeepsWorkingValuesInI64 := by
  intro s t hrange h
  cases hp : s.phase with
  | idle =>
    rcases step_idle_cases hp h with ht | ⟨w, -, -, ht⟩ | ⟨w, -, -, ht⟩ | ⟨w, -, -, ht⟩ | ⟨w, -, -, ht⟩ | ⟨-, -, ht⟩ |
      ⟨w, -, -, ht⟩ <;> refine ht.valuesInRange ?_
    case _ => exact hrange
    case _ => exact State.valuesInRange_idle hp
    case _ => exact State.valuesInRange_idle hp
    case _ => exact State.valuesInRange_idle hp
    case _ => exact State.valuesInRange_idle (State.finish_phase _ _)
    case _ => exact State.valuesInRange_idle rfl
    case _ => exact (State.valuesInRange_run (e := ⟨s.sample, .start (decode w)⟩) rfl).2 ⟨State.sample_inRange s, rfl⟩
  | run e =>
    obtain ⟨hops, hwork⟩ := (State.valuesInRange_run hp).1 hrange
    rcases step_run_cases hp h with ⟨-, -, ht⟩ | ⟨w, hturn, ht⟩ | ⟨out, -, ht⟩ <;> refine ht.valuesInRange ?_
    case _ => exact State.valuesInRange_idle rfl
    case _ => exact (State.valuesInRange_run (e := ⟨e.operands, w⟩) rfl).2 ⟨hops, (turn_inRange hops hwork).of_goOn hturn⟩
    case _ => exact State.valuesInRange_idle (State.finish_phase _ _)

end Sys2Proof.Machine
end

section
/-! Numbers and words (files 00 and 30): the two readings of a pattern, the bits of an exponent, and which words are illegal. -/

namespace Sys2Proof.Machine

/-- Settles O1: the top bit is the test that the pattern, as a number, is at least `2 ^ 63`. -/
theorem toIntIsTwosComplement : Obligations.ToIntIsTwosComplement := by
  intro w
  have hlt := w.isLt
  have hmsb : w.getLsbD 63 = decide (2 ^ 63 ≤ w.toNat) := BitVec.msb_eq_decide w
  rw [toInt, BitVec.toInt_eq_toNat_cond, hmsb]
  by_cases h : 2 ^ 63 ≤ w.toNat <;> simp only [h, decide_true, decide_false, if_true, Bool.false_eq_true, if_false] <;>
    split <;> omega

/-- The lowest `n` bits of a number make up its remainder by `2 ^ n` (R11). -/
theorem sum_bit (v n : Nat) : ((List.range n).map fun i => bit v i * 2 ^ i).sum = v % 2 ^ n := by
  induction n with
  | zero => simp [Nat.mod_one]
  | succ n ih => rw [List.range_succ, List.map_append, List.sum_append, ih, Nat.mod_pow_succ]; simp [bit, mul_comm]

/-- Settles O2: `bitlen` is one more than the binary logarithm, so all of `v` lies below its top bit. -/
theorem exponentBitsRebuildTheExponent : Obligations.ExponentBitsRebuildTheExponent := by
  intro v h1
  have hlt : v < 2 ^ bitlen v := Nat.lt_log2_self
  exact ⟨Nat.log2_self_le (by omega), hlt, by rw [sum_bit, Nat.mod_eq_of_lt hlt]⟩

theorem zeroField_eq_zero_iff (w : Word) : zeroField w = 0#60 ↔ w >>> 4 = 0#64 := by
  have hlt := w.isLt
  rw [← BitVec.toNat_inj, ← BitVec.toNat_inj]
  simp only [zeroField, BitVec.extractLsb'_toNat, BitVec.toNat_ushiftRight, BitVec.toNat_ofNat, Nat.shiftRight_eq_div_pow]
  omega

theorem opField_eq_toNat_and (w : Word) : opField w = (w &&& 0xF#64).toNat := by
  simp only [opField, BitVec.extractLsb'_toNat, BitVec.toNat_and, BitVec.toNat_ofNat, Nat.shiftRight_zero]
  exact (Nat.and_two_pow_sub_one_eq_mod w.toNat 4).symm

theorem zeroFieldClear_iff (w : Word) : zeroFieldClear w = true ↔ zeroField w = 0#60 := by
  rw [zeroField_eq_zero_iff]
  exact beq_iff_eq

theorem opcodeDefined_iff (w : Word) : opcodeDefined w = true ↔ opField w ≤ 6 := by
  rw [opcodeDefined, opField_eq_toNat_and]
  exact decide_eq_true_iff

/-- The opcodes above 6 are reserved (R72). -/
theorem decodeOp_of_gt {n : Nat} (h : 6 < n) : decodeOp n = .illegal .reservedOpcode := by
  obtain ⟨k, rfl⟩ : ∃ k, n = k + 7 := ⟨n - 7, by omega⟩
  rfl

theorem decodeOp_of_le {n : Nat} (h : n ≤ 6) : ∃ i, decodeOp n = .command i := by
  obtain rfl | rfl | rfl | rfl | rfl | rfl | rfl : n = 0 ∨ n = 1 ∨ n = 2 ∨ n = 3 ∨ n = 4 ∨ n = 5 ∨ n = 6 := by omega
  all_goals exact ⟨_, rfl⟩

theorem decode_of_zeroField {w : Word} (h : zeroFieldClear w = false) : decode w = .illegal .zeroField := by
  rw [decode, if_neg fun hz => by rw [(zeroFieldClear_iff w).2 hz] at h; cases h]

theorem decode_of_reserved {w : Word} (hz : zeroFieldClear w = true) (ho : opcodeDefined w = false) :
    decode w = .illegal .reservedOpcode := by
  rw [decode, if_pos ((zeroFieldClear_iff w).1 hz), decodeOp_of_gt]
  by_contra hle
  rw [(opcodeDefined_iff w).2 (by omega)] at ho
  cases ho

theorem decode_of_legal {w : Word} (hz : zeroFieldClear w = true) (ho : opcodeDefined w = true) :
    ∃ i, decode w = .command i := by
  rw [decode, if_pos ((zeroFieldClear_iff w).1 hz)]
  exact decodeOp_of_le ((opcodeDefined_iff w).1 ho)

/-- Settles O17: both ways of being illegal fail the test of legality, whatever word it is. -/
theorem decodeAndEncodeAgree : Obligations.DecodeAndEncodeAgree := by
  intro w
  refine ⟨fun i => decode_eq_command_iff, fun hz => ?_, fun hz ho => ?_⟩
  · have hclear : ¬zeroFieldClear w = true := by rwa [zeroFieldClear_iff, zeroField_eq_zero_iff]
    exact ⟨_, decode_of_zeroField (Bool.eq_false_of_not_eq_true hclear)⟩
  · have hclear : zeroFieldClear w = true := by rwa [zeroFieldClear_iff, zeroField_eq_zero_iff]
    have hundefined : ¬opcodeDefined w = true := by rw [opcodeDefined_iff, opField_eq_toNat_and]; omega
    exact ⟨_, decode_of_reserved hclear (Bool.eq_false_of_not_eq_true hundefined)⟩

/-- Settles O18: the two tests of legality split all patterns into the three answers of the decoder. -/
theorem illegalWordsAreNamed : Obligations.IllegalWordsAreNamed := by
  intro w
  rw [commandWordLegal]
  cases hz : zeroFieldClear w with
  | false => simp [decode_of_zeroField hz]
  | true =>
    cases ho : opcodeDefined w with
    | false => simp [decode_of_reserved hz ho]
    | true =>
      obtain ⟨i, hi⟩ := decode_of_legal hz ho
      simp [hi]

end Sys2Proof.Machine
end

section
/-! The host's side of a step (files 10, 20, 30 and 70): reset, operand writes, command words, and that nothing is stuck. -/

namespace Sys2Proof.Machine

/-- Reset acts at once, in either phase (R210, R211). -/
theorem step_rst {s : State} {rest : List HostAction} (hs : s.script = .rst :: rest) :
    step s = .next (State.resetBlock { s with script := rest }) := by
  cases hp : s.phase with
  | idle => exact step_idle_cons hp hs
  | run e => rw [step_run hp, runStep, hs]; rfl

theorem resetBlock_sameBlock (s : State) : s.resetBlock.SameBlock State.reset :=
  ⟨rfl, rfl, rfl, rfl, rfl, rfl, rfl, rfl, rfl⟩

/-- Settles O9: the reset event takes the same effect in both phases. -/
theorem resetLeavesTheResetStateFromAnyPhase : Obligations.ResetLeavesTheResetStateFromAnyPhase := fun _ _ hs =>
  ⟨_, step_rst hs, resetBlock_sameBlock _, rfl, rfl⟩

/-- Settles O4: R28 and R29 hold of the zero registers, and NOP sets DONE like every command. -/
theorem resetStateMeetsTheInvariants : Obligations.ResetStateMeetsTheInvariants := by
  refine ⟨(State.inv_idle rfl).2 State.reset_observable, State.reset_observable, (State.statusListed_idle rfl).2 ?_,
    State.valuesInRange_idle rfl, by decide, ?_⟩
  · exact List.mem_cons_self
  · obtain ⟨t, ht, -, hcompleted⟩ := nopClearsAndCompletes State.reset
    exact ⟨t, ht, hcompleted.done⟩

/-- No end of a command touches what the frame lists (R22, R27, R90). -/
theorem State.finish_frame (out : Except CommandFault Results) (s : State) : s.Frame (s.finish out) := by
  cases out <;> constructor <;> simp

/-- Settles O8: of all a step can do, only operand writes and reset reach the operand registers. -/
theorem operandRegistersChangeByHostWritesOnly : Obligations.OperandRegistersChangeByHostWritesOnly := by
  intro s t h
  have unchanged {u : State} (hu : t.SameBlock u) (ha : u.opa = s.opa) (hb : u.opb = s.opb) (hc : u.opc = s.opc) :
      t.opa = s.opa ∧ t.opb = s.opb ∧ t.opc = s.opc := ⟨hu.opa.trans ha, hu.opb.trans hb, hu.opc.trans hc⟩
  have written : (t.opa = s.opa ∧ t.opb = s.opb ∧ t.opc = s.opc) ∨ (∃ rest, s.script = .rst :: rest) ∨
      (∃ rest, s.script = .write 0 t.opa :: rest ∧ t.opb = s.opb ∧ t.opc = s.opc) ∨
      (∃ rest, s.script = .write 1 t.opb :: rest ∧ t.opa = s.opa ∧ t.opc = s.opc) ∨
      (∃ rest, s.script = .write 2 t.opc :: rest ∧ t.opa = s.opa ∧ t.opb = s.opb) := by
    cases hp : s.phase with
    | idle =>
      rcases step_idle_cases hp h with ht | ⟨w, rest, hs, ht⟩ | ⟨w, rest, hs, ht⟩ | ⟨w, rest, hs, ht⟩ | ⟨w, rest, -, ht⟩ |
        ⟨rest, hs, -⟩ | ⟨w, rest, -, ht⟩
      case _ => exact .inl (unchanged ht rfl rfl rfl)
      case _ => exact .inr (.inr (.inl ⟨rest, by rw [hs, ht.opa], ht.opb, ht.opc⟩))
      case _ => exact .inr (.inr (.inr (.inl ⟨rest, by rw [hs, ht.opb], ht.opa, ht.opc⟩)))
      case _ => exact .inr (.inr (.inr (.inr ⟨rest, by rw [hs, ht.opc], ht.opa, ht.opb⟩)))
      case _ =>
        have hframe := execute_frame (commandFunction (decode w)) { s with cmd := w }
        exact .inl (unchanged ht hframe.opa hframe.opb hframe.opc)
      case _ => exact .inr (.inl ⟨rest, hs⟩)
      case _ => exact .inl (unchanged ht rfl rfl rfl)
    | run e =>
      rcases step_run_cases hp h with ⟨rest, hs, -⟩ | ⟨w, -, ht⟩ | ⟨out, -, ht⟩
      case _ => exact .inr (.inl ⟨rest, hs⟩)
      case _ => exact .inl (unchanged ht rfl rfl rfl)
      case _ =>
        have hframe := State.finish_frame out s
        exact .inl (unchanged ht hframe.opa hframe.opb hframe.opc)
  rcases written with ⟨ha, hb, hc⟩ | ⟨rest, hs⟩ | ⟨rest, hs, hb, hc⟩ | ⟨rest, hs, ha, hc⟩ | ⟨rest, hs, ha, hb⟩
  · exact ⟨fun h => absurd ha h, fun h => absurd hb h, fun h => absurd hc h⟩
  · exact ⟨fun _ => ⟨rest, .inl hs⟩, fun _ => ⟨rest, .inl hs⟩, fun _ => ⟨rest, .inl hs⟩⟩
  · exact ⟨fun _ => ⟨rest, .inr hs⟩, fun h => absurd hb h, fun h => absurd hc h⟩
  · exact ⟨fun h => absurd ha h, fun _ => ⟨rest, .inr hs⟩, fun h => absurd hc h⟩
  · exact ⟨fun h => absurd ha h, fun h => absurd hb h, fun _ => ⟨rest, .inr hs⟩⟩

theorem steps_two {s t u : State} (h : step s = .next t) (h' : step t = .next u) : steps 2 s = .next u :=
  (steps_succ 1 h).trans (steps_succ 0 h')

/-- A write to CMD, whatever the word, is one step to the state its function leaves, answered `ok`. -/
theorem step_write_cmd_eq {s : State} {w : Word} {rest : List HostAction} (hi : s.phase = .idle)
    (hs : s.script = .write 3 w :: rest) :
    step s = .next ((State.execute (commandFunction (decode w)) { s with cmd := w, script := rest }).respond .ok) := by
  rw [step_write hi hs, serveWrite_cmd, commandWrite_eq_execute, afterNext]

/-- Settles O15: the command leaves CMD as written, and the next read is of CMD. -/
theorem commandWordReadsBack : Obligations.CommandWordReadsBack := by
  intro s w rest hi hs
  have hframe := execute_frame (commandFunction (decode w)) { s with cmd := w, script := .read 3 :: rest }
  refine ⟨_, steps_two (step_write_cmd_eq hi hs) (step_read (State.finish_phase _ _) hframe.script), hframe.cmd, ?_⟩
  exact congrArg₂ (fun c l => Response.data c :: Response.ok :: l) hframe.cmd hframe.transcript

/-- Settles O22: a legal word runs the function of its command. -/
theorem stepRunsTheDecodedCommand : Obligations.StepRunsTheDecodedCommand := by
  intro s w i rest hi hs hw
  have hexec := exec_eq_execute i { s with cmd := w, script := rest }
  have hframe := execute_frame (commandFunction (.command i)) { s with cmd := w, script := rest }
  exact ⟨_, hexec, (step_write_cmd hi hs ((commandWrite_of_decode hw _).trans hexec)).trans (by rw [hframe.transcript])⟩

theorem tableWord_toNat (w : Word) : tableWord 64 w.toNat = w := by
  rw [tableWord, Nat.mod_eq_of_lt w.isLt, BitVec.ofNat_toNat, BitVec.setWidth_eq]

/-- Settles O23: the placed word is the command's own, so the next step is the write of a word that decodes to it. -/
theorem stepRunsThePlacedCommand : Obligations.StepRunsThePlacedCommand := by
  intro s i
  constructor
  · rw [decodeTableWord, tableWord_toNat, decode_encode, if_pos (Nat.mod_lt _ (by decide))]
    rfl
  · refine stepRunsTheDecodedCommand (s.withFetchWord 64 (encode i).toNat) (encode i) i s.script rfl ?_ (decode_encode i)
    rw [State.withFetchWord_script, tableWord_toNat]

/-- A command leaves the record of responses out of account. -/
theorem execute_transcript (run : Operands → Except CommandFault Results) (s : State) (l l' : List Response) :
    { State.execute run { s with transcript := l } with transcript := l' } =
      { s.execute run with transcript := l' } := by
  change { State.finish (run s.sample) _ with transcript := l' } = { State.finish (run s.sample) _ with transcript := l' }
  cases run s.sample <;> rfl

/-- Settles O21: three operand writes and the command word, one step each. -/
theorem modpowPseudoInstructionRuns : Obligations.ModpowPseudoInstructionRuns := by
  intro s b e m rest hi hs
  refine ⟨_, exec_modpow _, ?_⟩
  refine (steps_succ 3 ((step_write hi hs).trans (serveWrite_opa _ _))).trans ?_
  refine (steps_succ 2 ((step_write (by exact hi) rfl).trans (serveWrite_opb _ _))).trans ?_
  refine (steps_succ 1 ((step_write (by exact hi) rfl).trans (serveWrite_opc _ _))).trans ?_
  have hword := fun u => (commandWrite_of_decode (decode_encode .modpow) u).trans (exec_modpow _)
  refine (steps_succ 0 (step_write_cmd (by exact hi) rfl (hword _))).trans (congrArg _ ?_)
  exact execute_transcript runModpow
    { s with opa := toBits b, opb := toBits e, opc := toBits m, cmd := encode .modpow, script := rest } _ _

/-- Settles O29: the host's action in IDLE has an answer, every command being the shared lifecycle, and so has a turn in RUN. -/
theorem everyStepGoesOn : Obligations.EveryStepGoesOn := by
  intro s
  cases hp : s.phase with
  | run e => exact ⟨_, step_run hp⟩
  | idle =>
    rcases hs : s.script with _ | ⟨a, rest⟩
    · exact ⟨_, step_idle_nil hp hs⟩
    rw [step_idle_cons hp hs]
    generalize hout : hostAct a { s with script := rest } = out
    rcases hostAct_cases hout with ⟨r, ht⟩ | ⟨w, -, ht⟩ | ⟨w, -, ht⟩ | ⟨w, -, ht⟩ | ⟨w, -, ht⟩ | ⟨-, ht⟩ | ⟨w, -, ht⟩ |
      ⟨-, ht⟩
    case inr.inr.inr.inr.inl => exact ⟨_, ht.trans (by rw [commandWrite_eq_execute, afterNext])⟩
    all_goals exact ⟨_, ht⟩

end Sys2Proof.Machine
end

section
/-! The lifecycle of a command (files 20, 40 and 60): acceptance, the held access, what a command leaves as it was, and what its
results depend on. -/

namespace Sys2Proof.Machine

/-- Settles O24: the step that takes a launched command is its acceptance. -/
theorem acceptanceSamplesAndClears : Obligations.AcceptanceSamplesAndClears := by
  intro s w rest hi hs
  refine ⟨_, step_idle_cons hi hs, ?_⟩
  simp [State.sample]

theorem finish_done (out : Except CommandFault Results) (s : State) : statusDone (s.finish out).status = true := by
  cases out <;> simp

/-- With an access or nothing presented the step in RUN is a turn of the engine (R91). -/
theorem step_run_of_headIsAccess {s : State} {e : Engine} (hp : s.phase = .run e) (hs : State.headIsAccess s.script = true) :
    step s = .next (s.engineStep e) := by
  rw [step_run hp]
  rcases runStep_cases e s with ⟨rest, h, -⟩ | ⟨rest, h, -⟩ | ⟨-, h⟩
  · rw [h] at hs; cases hs
  · rw [h] at hs; cases hs
  · rw [h]

/-- Settles O25: the turn either goes on, replacing the working values alone, or ends the command. -/
theorem accessIsHeldWhileRunning : Obligations.AccessIsHeldWhileRunning := by
  intro s e hp hs
  refine ⟨_, step_run_of_headIsAccess hp hs, ?_⟩
  rcases engineStep_cases e s with ⟨w, -, ht⟩ | ⟨out, -, ht⟩ <;> rw [ht]
  · exact ⟨rfl, rfl, rfl, rfl, rfl, fun _ => ⟨rfl, rfl, rfl, rfl, rfl⟩, nofun⟩
  · have hframe := State.finish_frame out s
    refine ⟨hframe.script, hframe.opa, hframe.opb, hframe.opc, hframe.cmd, fun hbusy => ?_, fun _ => ?_⟩
    · rw [State.busy, State.respond_phase, State.finish_phase] at hbusy; cases hbusy
    · exact ⟨finish_done out s, congrArg _ hframe.transcript⟩

/-- Settles O27: neither end of the shared lifecycle touches the frame. -/
theorem everyCommandKeepsItsFrame : Obligations.EveryCommandKeepsItsFrame := by
  intro i s t h
  obtain rfl := eq_execute_of_exec h
  exact ⟨execute_frame _ s, finish_done _ _, State.finish_phase _ _⟩

theorem State.with_cmd_eq {t : State} {w : Word} (h : t.cmd = w) : { t with cmd := w } = t := by subst h; rfl

/-- Settles O31: after the command the operands, CMD and the reserved bits of STATUS are as before, and nothing else is read. -/
theorem sameCommandTwiceLeavesTheSameState : Obligations.SameCommandTwiceLeavesTheSameState := by
  intro w s t h
  rw [commandWrite_eq_execute] at h ⊢
  obtain rfl := Host.Outcome.next.inj h
  generalize commandFunction (decode w) = run at *
  have hframe := execute_frame run { s with cmd := w }
  rw [State.with_cmd_eq hframe.cmd]
  have hframe' := execute_frame run (State.execute run { s with cmd := w })
  exact congrArg _ ((execute_sameBlock run hframe.opa hframe.opb hframe.opc hframe.cmd hframe.reserved).eq hframe'.script
    hframe'.transcript)

/-- A command function that reads only certain operands gives the same on states that agree on those. -/
theorem commandFunction_congr {i : Instr} {o o' : Operands} (ha : i ≠ .nop → o.a = o'.a)
    (hb : i ≠ .nop → i ≠ .fermat → o.b = o'.b) (hc : i = .modpow → o.c = o'.c) :
    commandFunction (.command i) o = commandFunction (.command i) o' := by
  cases i with
  | nop => rfl
  | emod => rw [commandFunction, runEmod, runEmod, ha nofun, hb nofun nofun]
  | modpow => rw [commandFunction, runModpow, runModpow, ha nofun, hb nofun nofun, hc rfl]
  | gcd => rw [commandFunction, runGcd, runGcd, ha nofun, hb nofun nofun]
  | xgcd => rw [commandFunction, runXgcd, runXgcd, ha nofun, hb nofun nofun]
  | modinv => rw [commandFunction, runModinv, runModinv, ha nofun, hb nofun nofun]
  | fermat => rw [commandFunction, runFermat, runFermat, ha nofun]

/-- Settles O20: results, ERR, ERRCODE, PRIME and COPRIME are what the function's outcome says, whatever stood there before. -/
theorem commandIgnoresOperandsItDoesNotRead : Obligations.CommandIgnoresOperandsItDoesNotRead := by
  intro i s s' t t' h h' ha hb hc
  obtain rfl := eq_execute_of_exec h
  obtain rfl := eq_execute_of_exec h'
  have hrun : commandFunction (.command i) s.sample = commandFunction (.command i) s'.sample :=
    commandFunction_congr (fun hi => congrArg toInt (ha hi)) (fun hi hf => congrArg toInt (hb hi hf))
      fun hm => congrArg toInt (hc hm)
  unfold State.execute
  rw [hrun]
  cases commandFunction (.command i) s'.sample <;> simp

end Sys2Proof.Machine
end

section
/-! The stepwise reading (files 40 and 70): the engine's turns as steps of the machine, and reset in the middle of them. -/

namespace Sys2Proof.Machine

theorem State.engineStep_of_goOn {e : Engine} {w : Work} (s : State) (h : turn e.operands e.work = .goOn w) :
    s.engineStep e = { s with phase := .run { e with work := w } } := by rw [State.engineStep, h]

theorem State.engineStep_of_ended {e : Engine} {out : Except CommandFault Results} (s : State)
    (h : turn e.operands e.work = .ended out) : s.engineStep e = (s.finish out).respond .ok := by
  rw [State.engineStep, h]

/-- The state a command ends in does not depend on where the engine stood. -/
theorem State.finish_with_phase (out : Except CommandFault Results) (s : State) (p : Phase) :
    State.finish out { s with phase := p } = s.finish out := by cases out <;> rfl

/-- Turns of the engine are steps of the machine while no reset and no `pause` is presented. -/
theorem steps_of_ends {o : Operands} {w : Work} {n : Nat} {out : Except CommandFault Results} (h : Ends o w n out)
    {s : State} (hp : s.phase = .run ⟨o, w⟩) (hs : State.headIsAccess s.script = true) :
    steps n s = .next ((s.finish out).respond .ok) := by
  induction h generalizing s with
  | last ht =>
    rw [steps_succ 0 (step_run_of_headIsAccess hp hs), State.engineStep_of_ended s ht, steps_zero]
  | more ht _ ih =>
    rw [steps_succ _ (step_run_of_headIsAccess hp hs), State.engineStep_of_goOn s ht]
    refine Eq.trans (ih ?_ hs) ?_
    · rfl
    · rw [State.finish_with_phase]

/-- A launched command runs to the end of its function. -/
theorem steps_launch {s : State} {w : Word} {rest : List HostAction} {n : Nat} {out : Except CommandFault Results}
    (hi : s.phase = .idle) (hs : s.script = .launch w :: rest) (hrest : State.headIsAccess rest = true)
    (h : Ends s.sample (.start (decode w)) n out) :
    steps (n + 1) s = .next ((State.finish out (State.launch w { s with cmd := w, script := rest })).respond .ok) := by
  rw [steps_succ n (step_idle_cons hi hs)]
  exact steps_of_ends h rfl hrest

/-- A launched command whose turns are bounded completes, and its CMD write is answered, within one step more: acceptance. -/
theorem completes_within {s : State} {w : Word} {rest : List HostAction} {k : Nat} (hi : s.phase = .idle)
    (hs : s.script = .launch w :: rest) (hrest : State.headIsAccess rest = true)
    (h : ∃ n out, n ≤ k ∧ Ends s.sample (.start (decode w)) n out) :
    ∃ n t, 2 ≤ n ∧ n ≤ k + 1 ∧ steps n s = .next t ∧ t.phase = .idle ∧ t.transcript = .ok :: s.transcript := by
  obtain ⟨n, out, hn, hends⟩ := h
  have hpos := hends.pos
  exact ⟨n + 1, _, by omega, by omega, steps_launch hi hs hrest hends, State.finish_phase _ _,
    congrArg _ (State.finish_frame _ _).transcript⟩

/-- Settles O26: the turns end with the command's function, and the end of the command does not depend on where the engine stood. -/
theorem stepwiseCommandReachesTheAtomicState : Obligations.StepwiseCommandReachesTheAtomicState := by
  intro s w rest hi hs hrest
  obtain ⟨n, out, hends⟩ := exists_ends s.sample (.start (decode w))
  have hout : commandFunction (decode w) s.sample = out := hends.out_eq.symm
  refine ⟨n + 1, _, steps_launch hi hs hrest hends, ?_, State.finish_phase _ _⟩
  refine (step_write_cmd_eq (by exact hi) rfl).trans (congrArg (fun t => Host.Outcome.next (State.respond .ok t)) ?_)
  rw [State.launch, State.finish_with_phase, ← hout]
  rfl

/-- A pause in the script is one step, that of the engine in RUN and none in IDLE. -/
theorem step_pause {s : State} {rest : List HostAction} (hs : s.script = .pause :: rest) :
    ∃ t, step s = .next t ∧ t.script = rest ∧ (t.busy = true → s.busy = true ∧ t.transcript = s.transcript) := by
  cases hp : s.phase with
  | idle => exact ⟨_, step_idle_cons hp hs, rfl, fun hbusy => ⟨hbusy, rfl⟩⟩
  | run e =>
    have hbusy : s.busy = true := by rw [State.busy, hp]
    refine ⟨State.engineStep e { s with script := rest }, by rw [step_run hp, runStep, hs], ?_⟩
    rcases engineStep_cases e { s with script := rest } with ⟨w, -, ht⟩ | ⟨out, -, ht⟩ <;> rw [ht]
    · exact ⟨rfl, fun _ => ⟨hbusy, rfl⟩⟩
    · refine ⟨(State.finish_frame out _).script, fun h => ?_⟩
      rw [State.busy, State.respond_phase, State.finish_phase] at h; cases h

/-- A number of pauses: if the command still runs at the end it has run all along, unanswered. -/
theorem steps_pauses {s : State} {k : Nat} {rest : List HostAction} (hs : s.script = List.replicate k HostAction.pause ++ rest) :
    ∃ t, steps k s = .next t ∧ t.script = rest ∧ (t.busy = true → s.busy = true ∧ t.transcript = s.transcript) := by
  induction k generalizing s with
  | zero => exact ⟨s, rfl, hs, fun h => ⟨h, rfl⟩⟩
  | succ k ih =>
    obtain ⟨u, hu, huscript, hubusy⟩ := step_pause (s := s) hs
    obtain ⟨t, ht, hscript, hbusy⟩ := ih huscript
    refine ⟨t, (steps_succ k hu).trans ht, hscript, fun h => ?_⟩
    obtain ⟨hu', htr⟩ := hbusy h
    obtain ⟨hs', hstr⟩ := hubusy hu'
    exact ⟨hs', htr.trans hstr⟩

/-- Settles O10: either way the reset finds its turn at the head of the script, and reset leaves the reset state from any state. -/
theorem resetDuringACommandIsResetAfterIt : Obligations.ResetDuringACommandIsResetAfterIt := by
  intro s w k rest hi hs
  obtain ⟨r, hr, hscript, hbusy⟩ := steps_pauses (k := k) (rest := .rst :: rest)
    (s := State.launch w { s with cmd := w, script := List.replicate k .pause ++ .rst :: rest }) rfl
  have hframe := execute_frame (commandFunction (decode w)) { s with cmd := w, script := .rst :: rest }
  have hatomic := steps_two (step_write_cmd_eq (s := { s with script := .write 3 w :: .rst :: rest }) hi rfl)
    (step_rst hframe.script)
  exact ⟨r, _, _, (steps_succ k (step_idle_cons hi hs)).trans hr, step_rst hscript, hatomic,
    ⟨rfl, rfl, rfl, rfl, rfl, rfl, rfl, rfl, rfl⟩, resetBlock_sameBlock _, rfl, fun h => (hbusy h).2⟩

end Sys2Proof.Machine
end

section
/-! The remainder (file 41): the floored remainder in terms of congruence, and the laws of `emod`. -/

namespace Sys2Proof.Machine

/-- The floored remainder is congruent to the dividend (R106). -/
theorem fmod_modEq (a m : Int) : a.fmod m ≡ a [ZMOD m] := by
  rw [Int.modEq_iff_dvd, Int.fmod_def, sub_sub_cancel]
  exact dvd_mul_right _ _

/-- Congruent numbers have the same floored remainder (R106). -/
theorem fmod_eq_of_modEq {a b m : Int} (hm : m ≠ 0) (h : a ≡ b [ZMOD m]) : a.fmod m = b.fmod m := by
  obtain ⟨-, hbounds⟩ := (eq_fmod_iff (a := a) hm).1 rfl
  exact (eq_fmod_iff hm).2 ⟨Int.modEq_iff_dvd.1 ((fmod_modEq a m).trans h), hbounds⟩

/-- A remainder is smaller in magnitude than its divisor (R106 (a)). -/
theorem abs_fmod_le (a : Int) {m : Int} (hm : m ≠ 0) : |a.fmod m| ≤ |m| - 1 := by
  have hlt := natAbs_fmod_lt a hm
  rw [Int.abs_eq_natAbs, Int.abs_eq_natAbs]
  omega

theorem fmod_eq_zero_iff {a m : Int} (hm : m ≠ 0) : a.fmod m = 0 ↔ m ∣ a := by
  rw [eq_comm, eq_fmod_iff hm, sub_zero]
  exact and_iff_left ⟨fun h => ⟨le_rfl, h⟩, fun h => ⟨h, le_rfl⟩⟩

/-- The floored remainder from the truncating one, which has the dividend's sign (R106 (f)). -/
theorem fmod_eq_tmod {a b : Int} (h : b ≠ 0) :
    a.fmod b = if a.tmod b ≠ 0 ∧ (a.tmod b < 0 ↔ 0 < b) then a.tmod b + b else a.tmod b := by
  have hlt : (a.tmod b).natAbs < b.natAbs := by
    rw [Int.natAbs_tmod]
    exact Nat.mod_lt _ (Int.natAbs_pos.2 h)
  have hdvd : b ∣ a - a.tmod b := Int.dvd_self_sub_tmod
  symm
  split
  case isTrue hadd =>
    exact (eq_fmod_iff h).2 ⟨by rw [← sub_sub]; exact dvd_sub_self_right.2 hdvd, by omega⟩
  case isFalse hkeep => exact (eq_fmod_iff h).2 ⟨hdvd, by omega⟩

/-- Settles O37: `emod` is the floored remainder, and each law is one of it. -/
theorem emodLaws : Obligations.EmodLaws := by
  intro a b h
  refine ⟨a.fmod b, emod_of_ne a h, abs_fmod_le a h, fmod_eq_zero_iff h, ?idem, fun k => ?add, fun y => ?mul, fun hunit => ?unit,
    fmod_eq_tmod h⟩
  case idem => rw [emod_of_ne _ h, Int.fmod_fmod]
  case add =>
    have hmod : a + k * b ≡ a [ZMOD b] := Int.modEq_iff_dvd.2 ⟨-k, by ring⟩
    rw [emod_of_ne _ h, fmod_eq_of_modEq h hmod]
  case mul => rw [emod_of_ne _ h, emod_of_ne _ h, fmod_eq_of_modEq h ((fmod_modEq a b).mul_right y)]
  case unit => exact (fmod_eq_zero_iff h).2 (by rcases hunit with rfl | rfl <;> simp)

end Sys2Proof.Machine
end

section
/-! Modular exponentiation (file 41): the loop against its recursion, the residue it computes, the range where it cannot overflow,
and its faults. -/

namespace Sys2Proof.Machine

/-! The loop and the recursion -/

/-- The loop handles the lowest bit last: the bits above it are those of half the exponent. -/
theorem modpowLoop_succ_last (base : Int) (e : Nat) (m : Int) (i : Nat) (acc : Int) :
    modpowLoop base e m (i + 1) acc = modpowLoop base (e / 2) m i acc >>= modpowIter base e m 0 := by
  have hbit (j : Nat) : bit e (j + 1) = bit (e / 2) j := by rw [bit, bit, pow_succ', Nat.div_div_eq_div_mul]
  induction i generalizing acc with
  | zero =>
    rw [modpowLoop_succ, modpowLoop_zero, bind_ok]
    cases modpowIter base e m 0 acc <;> rfl
  | succ i ih =>
    have hiter : modpowIter base e m (i + 1) acc = modpowIter base (e / 2) m i acc := by
      rw [modpowIter, modpowIter, hbit]
    rw [modpowLoop_succ, modpowLoop_succ, hiter, bind_assoc]
    exact congrArg _ (funext ih)

theorem modpowRecFuel_of_le_one (base m : Int) (fuel : Nat) {e : Nat} (h : e ≤ 1) :
    modpowRecFuel base m fuel e = .ok base := by
  cases fuel with
  | zero => rfl
  | succ fuel => rw [modpowRecFuel, if_pos h]

/-- The recursion squares and multiplies what it gets for half the exponent exactly as an iteration of the loop does. -/
theorem modpowRecFuel_succ (base m : Int) (fuel : Nat) {e : Nat} (h : 2 ≤ e) :
    modpowRecFuel base m (fuel + 1) e = modpowRecFuel base m fuel (e / 2) >>= modpowIter base e m 0 := by
  have hbit : bit e 0 = e % 2 := by rw [bit, pow_zero, Nat.div_one]
  rw [modpowRecFuel, if_neg (by omega)]
  exact congrArg _ (funext fun acc => by rw [modpowIter, hbit])

/-- With depth enough for the exponent the recursion is the loop over the bits below the top one. -/
theorem modpowRecFuel_eq_loop (base m : Int) {fuel e : Nat} (h1 : 1 ≤ e) (h : e ≤ fuel) :
    modpowRecFuel base m fuel e = modpowLoop base e m e.log2 base := by
  induction fuel generalizing e with
  | zero => omega
  | succ fuel ih =>
    by_cases h2 : 2 ≤ e
    · rw [modpowRecFuel_succ base m fuel h2, ih (by omega) (by omega), Nat.log2_def e, if_pos h2, modpowLoop_succ_last]
    · obtain rfl : e = 1 := by omega
      rw [modpowRecFuel_of_le_one _ _ _ le_rfl]
      rfl

/-- Settles O39: both begin with the same test, and then the loop is the recursion unrolled. -/
theorem modpowLoopEqualsItsRecursion : Obligations.ModpowLoopEqualsItsRecursion := by
  intro base e m
  rw [modpow, modpowRec]
  split
  · rfl
  · exact (modpowRecFuel_eq_loop base m (by omega) le_rfl).symm

/-! The residue -/

/-- One iteration doubles the exponent reached and adds the bit. -/
theorem modpowIter_modEq {base m acc r : Int} {e i k : Nat} (h : modpowIter base e m i acc = .ok r)
    (hacc : acc ≡ base ^ k [ZMOD m]) : r ≡ base ^ (2 * k + bit e i) [ZMOD m] := by
  have hsq : (acc * acc).fmod m ≡ base ^ (2 * k) [ZMOD m] := by
    rw [two_mul, pow_add]
    exact (fmod_modEq _ _).trans (hacc.mul hacc)
  obtain ⟨-, -, h⟩ := modpowIter_eq_ok_iff.1 h
  split at h
  case isTrue hbit =>
    obtain ⟨-, rfl⟩ := h
    rw [hbit, pow_succ]
    exact (fmod_modEq _ _).trans (hsq.mul_right base)
  case isFalse hbit =>
    have hzero : bit e i = 0 := by rw [bit] at hbit ⊢; omega
    rwa [h, hzero, add_zero]

/-- The loop invariant: before the iteration of bit `i - 1` the accumulator is congruent to the power by the bits from `i` on. -/
theorem modpowLoop_modEq {base m acc r : Int} {e i : Nat} (h : modpowLoop base e m i acc = .ok r)
    (hacc : acc ≡ base ^ (e / 2 ^ i) [ZMOD m]) : r ≡ base ^ e [ZMOD m] := by
  induction i generalizing acc with
  | zero =>
    obtain rfl := Except.ok.inj h
    rwa [pow_zero, Nat.div_one] at hacc
  | succ i ih =>
    obtain ⟨acc', hiter, hloop⟩ := bind_eq_ok.1 ((modpowLoop_succ base e m i acc).symm.trans h)
    have hexp : 2 * (e / 2 ^ (i + 1)) + bit e i = e / 2 ^ i := by
      rw [bit, pow_succ, ← Nat.div_div_eq_div_mul]
      omega
    exact ih hloop (hexp ▸ modpowIter_modEq hiter hacc)

/-- A fault-free iteration had a modulus and ends reduced. -/
theorem modpowIter_reduced {base m acc r : Int} {e i : Nat} (h : modpowIter base e m i acc = .ok r) :
    m ≠ 0 ∧ r.fmod m = r := by
  obtain ⟨-, hm, h⟩ := modpowIter_eq_ok_iff.1 h
  split at h
  · obtain ⟨-, rfl⟩ := h; exact ⟨hm, Int.fmod_fmod _ _⟩
  · subst h; exact ⟨hm, Int.fmod_fmod _ _⟩

theorem modpowLoop_reduced {base m acc r : Int} {e i : Nat} (h : modpowLoop base e m (i + 1) acc = .ok r) :
    m ≠ 0 ∧ r.fmod m = r := by
  rw [modpowLoop_succ_last] at h
  obtain ⟨_, -, hiter⟩ := bind_eq_ok.1 h
  exact modpowIter_reduced hiter

/-- With an exponent of at least 2 there is an iteration. -/
theorem modpow_of_two_le (base : Int) {e : Int} (m : Int) (h : 2 ≤ e) :
    ∃ i, modpow base e m = modpowLoop base e.toNat m (i + 1) base := by
  refine ⟨(e.toNat / 2).log2, ?_⟩
  rw [modpow_of_one_le (by omega), bitlen, Nat.add_sub_cancel, Nat.log2_def, if_pos (by omega)]

theorem modpow_one (base m : Int) : modpow base 1 m = .ok base := rfl

/-- A fault-free `modpow` is congruent to the exact power (R110). -/
theorem modpow_modEq {base e m r : Int} (h : modpow base e m = .ok r) : r ≡ base ^ e.toNat [ZMOD m] := by
  by_cases h1 : 1 ≤ e
  · rw [modpow_of_one_le h1] at h
    have htop : e.toNat / 2 ^ (bitlen e.toNat - 1) = 1 := by
      have hlog := (Nat.log2_eq_iff (by omega)).1 (rfl : e.toNat.log2 = _)
      rw [bitlen, Nat.add_sub_cancel]
      exact Nat.div_eq_of_lt_le (by omega) (by rw [pow_succ] at hlog; omega)
    exact modpowLoop_modEq h (by rw [htop, pow_one])
  · rw [modpow_of_lt_one (by omega)] at h; cases h

/-- A fault-free `modpow` with an exponent of at least 2 is the residue of the exact power (R110 (b)). -/
theorem modpow_eq_fmod {base e m r : Int} (h : modpow base e m = .ok r) (h2 : 2 ≤ e) :
    m ≠ 0 ∧ r = (base ^ e.toNat).fmod m := by
  obtain ⟨i, hi⟩ := modpow_of_two_le base m h2
  obtain ⟨hm, hr⟩ := modpowLoop_reduced (hi ▸ h)
  exact ⟨hm, by rw [← hr, fmod_eq_of_modEq hm (modpow_modEq h)]⟩

/-! Faults -/

theorem modpowIter_of_not_inI64 (base : Int) (e : Nat) (m : Int) (i : Nat) {acc : Int} (h : inI64 (acc * acc) = false) :
    modpowIter base e m i acc = .error .overflow := by
  rw [modpowIter, chk_eq_error_iff.2 ⟨h, rfl⟩, bind_error]

theorem modpowIter_of_zero (base : Int) (e : Nat) (i : Nat) {acc : Int} (h : inI64 (acc * acc) = true) :
    modpowIter base e 0 i acc = .error .divideByZero := by
  rw [modpowIter, chk_of_inI64 h, bind_ok, emod_zero, bind_error]

/-- With a modulus an iteration can only overflow. -/
theorem modpowIter_error {base m acc : Int} {e i : Nat} {f : CommandFault} (hm : m ≠ 0)
    (h : modpowIter base e m i acc = .error f) : f = .overflow := by
  rcases bind_eq_error.1 h with hsq | ⟨sq, -, h⟩
  · exact (chk_eq_error_iff.1 hsq).2
  rw [emod_of_ne sq hm, bind_ok] at h
  split at h
  · rcases bind_eq_error.1 h with hp | ⟨p, -, hp⟩
    · exact (chk_eq_error_iff.1 hp).2
    · exact absurd (emod_eq_error_iff.1 hp).1 hm
  · cases h

theorem modpowLoop_error {base m acc : Int} {e i : Nat} {f : CommandFault} (hm : m ≠ 0)
    (h : modpowLoop base e m i acc = .error f) : f = .overflow := by
  induction i generalizing acc with
  | zero => cases h
  | succ i ih =>
    rcases bind_eq_error.1 ((modpowLoop_succ base e m i acc).symm.trans h) with hiter | ⟨acc', -, hloop⟩
    · exact modpowIter_error hm hiter
    · exact ih hloop

theorem modpow_error {base e m : Int} {f : CommandFault} (h1 : 1 ≤ e) (hm : m ≠ 0) (h : modpow base e m = .error f) :
    f = .overflow := by
  rw [modpow_of_one_le h1] at h
  exact modpowLoop_error hm h

/-- The first square is checked before anything else (R111). -/
theorem modpow_first_overflow {base e : Int} (m : Int) (h2 : 2 ≤ e) (h : inI64 (base * base) = false) :
    modpow base e m = .error .overflow := by
  obtain ⟨i, hi⟩ := modpow_of_two_le base m h2
  rw [hi, modpowLoop_succ, modpowIter_of_not_inI64 _ _ _ _ h, bind_error]

/-- Then the modulus is used for the first time (R111). -/
theorem modpow_zero {base e : Int} (h2 : 2 ≤ e) (h : inI64 (base * base) = true) :
    modpow base e 0 = .error .divideByZero := by
  obtain ⟨i, hi⟩ := modpow_of_two_le base 0 h2
  rw [hi, modpowLoop_succ, modpowIter_of_zero _ _ _ h, bind_error]

/-! The overflow-free range (R104) -/

/-- The product of two numbers of magnitude at most 3037000499 lies in I64. -/
theorem inI64_mul {x y : Int} (hx : |x| ≤ 3037000499) (hy : |y| ≤ 3037000499) : inI64 (x * y) = true := by
  have h : |x * y| ≤ 3037000499 * 3037000499 := by
    rw [abs_mul]
    exact mul_le_mul hx hy (abs_nonneg y) (by norm_num)
  rw [abs_le] at h
  rw [inI64_iff]
  omega

/-- 3037000499 is the largest magnitude whose square lies in I64. -/
theorem inI64_mul_self_iff (x : Int) : inI64 (x * x) = true ↔ |x| ≤ 3037000499 := by
  refine ⟨fun h => ?_, fun h => inI64_mul h h⟩
  rw [inI64_iff] at h
  by_contra hgt
  have hsq : (3037000500 : Int) * 3037000500 ≤ |x| * |x| :=
    mul_le_mul (by omega) (by omega) (by norm_num) (abs_nonneg x)
  rw [abs_mul_abs_self] at hsq
  omega

section
variable {base m : Int} (hm0 : m ≠ 0) (hm : |m| ≤ 3037000500) (hbase : |base| ≤ 3037000499)
include hm0 hm hbase

theorem modpowIter_of_overflowFree (e i : Nat) {acc : Int} (hacc : |acc| ≤ 3037000499) :
    ∃ r, modpowIter base e m i acc = .ok r ∧ |r| ≤ 3037000499 := by
  have hreduced (a : Int) : |a.fmod m| ≤ 3037000499 := (abs_fmod_le a hm0).trans (by omega)
  by_cases hbit : bit e i = 1
  · exact ⟨_, modpowIter_eq_ok_iff.2 ⟨inI64_mul hacc hacc, hm0, by
      rw [if_pos hbit]; exact ⟨inI64_mul (hreduced _) hbase, rfl⟩⟩, hreduced _⟩
  · exact ⟨_, modpowIter_eq_ok_iff.2 ⟨inI64_mul hacc hacc, hm0, by rw [if_neg hbit]⟩, hreduced _⟩

theorem modpowLoop_of_overflowFree (e i : Nat) {acc : Int} (hacc : |acc| ≤ 3037000499) :
    ∃ r, modpowLoop base e m i acc = .ok r := by
  induction i generalizing acc with
  | zero => exact ⟨acc, rfl⟩
  | succ i ih =>
    obtain ⟨acc', hiter, hacc'⟩ := modpowIter_of_overflowFree hm0 hm hbase e i hacc
    obtain ⟨r, hr⟩ := ih hacc'
    exact ⟨r, by rw [modpowLoop_succ, hiter, bind_ok, hr]⟩

/-- In the overflow-free range `modpow` does not fault (R104). -/
theorem modpow_of_overflowFree {e : Int} (h1 : 1 ≤ e) :
    modpow base e m = .ok (if e = 1 then base else (base ^ e.toNat).fmod m) := by
  split
  case isTrue h => rw [h, modpow_one]
  case isFalse h =>
    obtain ⟨r, hr⟩ := modpowLoop_of_overflowFree hm0 hm hbase e.toNat (bitlen e.toNat - 1) hbase
    rw [← modpow_of_one_le h1] at hr
    rw [hr, (modpow_eq_fmod hr (by omega)).2]

end

/-! MODPOW (R111) -/

theorem runModpow_of_ok {o : Operands} {r : Int} (h : modpow o.a o.b o.c = .ok r) :
    runModpow o = .ok ⟨r, 0, 0, false, false⟩ := by rw [runModpow, h]; rfl

theorem runModpow_of_error {o : Operands} {f : CommandFault} (h : modpow o.a o.b o.c = .error f) :
    runModpow o = .error f := by rw [runModpow, h]; rfl

/-- A command whose function ends with results completes with exactly those: they lie in I64 with the operands. -/
theorem execute_completed_of_ok {i : Instr} {s : State} {r : Results}
    (h : commandFunction (.command i) s.sample = .ok r) :
    (s.execute (commandFunction (.command i))).Completed r.r0 r.r1 r.r2 r.prime r.coprime := by
  obtain ⟨h0, h1, h2⟩ := commandFunction_inRange (State.sample_inRange s) h
  exact execute_completed h h0 h1 h2

theorem exec_modpow_of_ok {s : State} {r : Int} (h : modpow (toInt s.opa) (toInt s.opb) (toInt s.opc) = .ok r) :
    ∃ t, exec .modpow s = .next t ∧ s.Frame t ∧ t.Completed r 0 0 false false :=
  ⟨_, exec_modpow s, execute_frame _ s, execute_completed_of_ok (i := .modpow) (runModpow_of_ok h)⟩

theorem exec_modpow_of_error {s : State} {f : CommandFault}
    (h : modpow (toInt s.opa) (toInt s.opb) (toInt s.opc) = .error f) :
    ∃ t, exec .modpow s = .next t ∧ s.Frame t ∧ t.Faulted f :=
  ⟨_, exec_modpow s, execute_frame _ s, execute_faulted (runModpow_of_error h)⟩

/-- A command that leaves ERR = 0 has ended with results (R95). -/
theorem execute_ok_of_err {run : Operands → Except CommandFault Results} {s : State}
    (h : statusErr (s.execute run).status = false) : ∃ r, run s.sample = .ok r := by
  rcases execute_cases run s with ⟨r, hr, -⟩ | ⟨f, hf, -⟩
  · exact ⟨r, hr⟩
  · rw [(execute_faulted hf).err] at h; cases h

/-- Settles O40: the loop keeps the accumulator congruent to the power of the bits handled, and ends with a reduction. -/
theorem faultFreeModpowIsTheResidueOfThePower : Obligations.FaultFreeModpowIsTheResidueOfThePower := by
  intro s t h herr
  obtain rfl := eq_execute_of_exec h
  obtain ⟨r, hr⟩ := execute_ok_of_err herr
  have hcompleted := execute_completed_of_ok hr
  obtain ⟨v, hv, rfl⟩ := runModpow_eq_ok hr
  have h1 : 1 ≤ toInt s.opb := by
    by_contra hlt
    rw [modpow_of_lt_one (show s.sample.b < 1 by rw [State.sample_b]; omega)] at hv
    cases hv
  refine ⟨h1, fun hone => ?_, fun h2 => ?_⟩
  · rw [State.sample_b, hone, modpow_one] at hv
    obtain rfl := Except.ok.inj hv
    exact hcompleted
  · obtain ⟨hm, rfl⟩ := modpow_eq_fmod hv h2
    exact ⟨hm, hcompleted⟩

/-- Settles O41: reduced numbers stay below the largest magnitude whose square lies in I64. -/
theorem modpowCompletesInTheOverflowFreeRange : Obligations.ModpowCompletesInTheOverflowFreeRange := by
  refine ⟨fun x => (inI64_mul_self_iff x).symm, fun s h1 hpos hm hbase => ?_⟩
  have hm0 : toInt s.opc ≠ 0 := abs_pos.1 (by omega)
  exact exec_modpow_of_ok (modpow_of_overflowFree hm0 hm hbase h1)

/-- Settles O42: no bit is below the top one, so no iteration is made. -/
theorem modpowExponentOneReturnsTheBase : Obligations.ModpowExponentOneReturnsTheBase := by
  intro s h
  obtain ⟨t, ht, hframe, hcompleted⟩ := exec_modpow_of_ok (s := s) (r := toInt s.opa) (by rw [h, modpow_one])
  exact ⟨t, ht, hframe, hcompleted, BitVec.eq_of_toInt_eq hcompleted.res0⟩

/-- Settles O43: the exponent is tested at the beginning, the first square before it is reduced. -/
theorem modpowFaultsInTheirOrder : Obligations.ModpowFaultsInTheirOrder := by
  intro s
  refine ⟨fun hlt => ?_, fun h2 hbase => ?_, fun h2 hbase hm => ?_⟩
  · exact exec_modpow_of_error (modpow_of_lt_one hlt)
  · have hout : ¬inI64 (toInt s.opa * toInt s.opa) = true := by rw [inI64_mul_self_iff]; omega
    exact exec_modpow_of_error (modpow_first_overflow _ h2 (Bool.eq_false_of_not_eq_true hout))
  · exact exec_modpow_of_error (by rw [hm, modpow_zero h2 ((inI64_mul_self_iff _).2 hbase)])

/-! The number of iterations (R99) -/

/-- MODPOW makes at most one turn per bit and one to end. -/
theorem ends_modpow (o : Operands) (acc : Int) (i : Nat) : ∃ n out, n ≤ i + 1 ∧ Ends o (.modpow acc i) n out := by
  induction i generalizing acc with
  | zero => exact ⟨1, _, le_rfl, .last rfl⟩
  | succ i ih =>
    cases h : modpowIter o.a o.b.toNat o.c i acc with
    | ok v =>
      obtain ⟨n, out, hn, hends⟩ := ih v
      exact ⟨n + 1, out, by omega, .more (by rw [turn, h, Turn.from]) hends⟩
    | error f => exact ⟨1, _, by omega, .last (by rw [turn, h, Turn.from])⟩

/-- Settles O44: an exponent in I64 has at most 62 bits below the top one. -/
theorem modpowCompletesWithinSixtyTwoIterations : Obligations.ModpowCompletesWithinSixtyTwoIterations := by
  intro s rest hi hs hrest
  refine completes_within (k := 64) hi hs hrest ?_
  rw [decode_encode]
  by_cases h1 : toInt s.opb < 1
  · exact ⟨1, _, by omega, .last (if_pos h1)⟩
  · have hbits := bitlen_sub_one_le (inI64_toInt s.opb) (by omega)
    obtain ⟨n, out, hn, hends⟩ := ends_modpow s.sample (toInt s.opa) (bitlen (toInt s.opb).toNat - 1)
    exact ⟨n + 1, out, by omega, .more (if_neg h1) hends⟩

end Sys2Proof.Machine
end

section
/-! The round trip of an RSA triple (file 95, S2). -/

namespace Sys2Proof.Machine

/-- Fermat's little theorem, for every base: a power whose exponent is 1 modulo `p - 1` is congruent to the base. -/
theorem pow_modEq_self {p : Nat} (hp : p.Prime) (x : Int) (k : Nat) : x ^ (1 + (p - 1) * k) ≡ x [ZMOD p] := by
  by_cases hx : (p : Int) ∣ x
  · exact (Int.modEq_zero_iff_dvd.2 (dvd_pow hx (by omega))).trans (Int.modEq_zero_iff_dvd.2 hx).symm
  · have hcoprime : IsCoprime x (p : Int) := ((Nat.prime_iff_prime_int.1 hp).coprime_iff_not_dvd.2 hx).symm
    have hone := (Int.ModEq.pow_card_sub_one_eq_one hp hcoprime).pow k
    calc x ^ (1 + (p - 1) * k) = x * (x ^ (p - 1)) ^ k := by rw [pow_add, pow_one, pow_mul]
      _ ≡ x * 1 ^ k [ZMOD p] := hone.mul_left x
      _ = x := by rw [one_pow, mul_one]

/-- An exponent that is 1 modulo `(p - 1)(q - 1)` gives every base back modulo `p * q`. -/
theorem pow_modEq_self_mul {p q n : Nat} (hp : p.Prime) (hq : q.Prime) (hpq : p ≠ q) (x : Int) (hn : 1 ≤ n)
    (h : ((p : Int) - 1) * ((q : Int) - 1) ∣ (n : Int) - 1) : x ^ n ≡ x [ZMOD (p * q)] := by
  have hdvd : (p - 1) * (q - 1) ∣ n - 1 := by
    have hp1 := hp.one_le
    have hq1 := hq.one_le
    zify [hp1, hq1, hn]
    exact h
  obtain ⟨k, hk⟩ := hdvd
  have hcoprime : (p : Int).natAbs.Coprime (q : Int).natAbs := (Nat.coprime_primes hp hq).2 hpq
  refine (Int.modEq_and_modEq_iff_modEq_mul hcoprime).1 ⟨?_, ?_⟩
  · have hexp : n = 1 + (p - 1) * ((q - 1) * k) := by rw [← mul_assoc, ← hk]; omega
    exact hexp ▸ pow_modEq_self hp x _
  · have hexp : n = 1 + (q - 1) * ((p - 1) * k) := by rw [← mul_assoc, mul_comm (q - 1), ← hk]; omega
    exact hexp ▸ pow_modEq_self hq x _

/-- On a reduced base `modpow` is the residue of the power for exponent 1 too. -/
theorem modpow_of_residue {x e m : Int} (hm : m ≤ 3037000500) (h0 : 0 ≤ x) (hx : x < m) (h1 : 1 ≤ e) :
    modpow x e m = .ok ((x ^ e.toNat).fmod m) := by
  rw [modpow_of_overflowFree (by omega) (abs_le.2 (by omega)) (abs_le.2 (by omega)) h1]
  split
  case isTrue h => rw [h, Int.toNat_one, pow_one, Int.fmod_eq_of_lt h0 hx]
  case isFalse => rfl

/-- Settles O45: the two residues compose to the power by `e * d`, which is the base again. -/
theorem modpowRoundTripsAnRsaTriple : Obligations.ModpowRoundTripsAnRsaTriple := by
  intro s p q d hp hq hpq hc hle h0 hx hb hd hdin hdvd
  have hpos : (0 : Int) < p * q := by omega
  generalize hbase : toInt s.opa = x at *
  generalize hexp : toInt s.opb = e at *
  have hfirst : modpow (toInt s.opa) (toInt s.opb) (toInt s.opc) = .ok ((x ^ e.toNat).fmod (p * q)) := by
    rw [hbase, hexp, hc, modpow_of_residue (by exact_mod_cast hle) h0 hx hb]
  obtain ⟨t, ht, hframe, hcompleted⟩ := exec_modpow_of_ok hfirst
  have hback : ((x ^ e.toNat).fmod (p * q) ^ d.toNat).fmod (p * q) = x := by
    have hmod : (x ^ e.toNat).fmod (p * q) ^ d.toNat ≡ x [ZMOD (p * q)] := by
      refine ((fmod_modEq _ _).pow d.toNat).trans ?_
      rw [← pow_mul]
      refine pow_modEq_self_mul hp hq hpq x (Nat.mul_pos (by omega) (by omega)) ?_
      rwa [Nat.cast_mul, Int.toNat_of_nonneg (by omega), Int.toNat_of_nonneg (by omega)]
    rw [fmod_eq_of_modEq hpos.ne' hmod, Int.fmod_eq_of_lt h0 hx]
  have hsecond : modpow (toInt t.res0) (toInt (toBits d)) (toInt t.opc) = .ok x := by
    rw [hcompleted.res0, toInt_toBits hdin, hframe.opc, hc, modpow_of_residue (by exact_mod_cast hle)
      (Int.fmod_nonneg_of_pos _ hpos) (Int.fmod_lt_of_pos _ hpos) hd, hback]
  obtain ⟨u, hu, -, hcompleted'⟩ := exec_modpow_of_ok (s := { t with opa := t.res0, opb := toBits d }) hsecond
  exact ⟨t, u, ht, hu, hcompleted'⟩

end Sys2Proof.Machine
end

section
/-! The number of iterations of GCD (R225), by Lamé's bound. -/

namespace Sys2Proof.Machine

/-- A remainder by a number no larger than the dividend takes that number off at least once. -/
theorem fmod_le_sub {b r : Int} (hr : 0 < r) (h : r ≤ b) : b.fmod r ≤ b - r := by
  have hlt := Int.fmod_lt_of_pos b hr
  rw [Int.fmod_def] at hlt ⊢
  have hq : 0 < b.fdiv r := (mul_pos_iff_of_pos_left hr).1 (by omega)
  have hle : r ≤ r * b.fdiv r := le_mul_of_one_le_right hr.le hq
  omega

/-- A second argument below the Fibonacci number `n + 2` leaves at most `n` iterations: two of them bring it two numbers down. -/
theorem ends_gcd (o : Operands) {n : Nat} {a b : Int} (hb : 0 ≤ b) (hfib : b < Nat.fib (n + 2)) :
    ∃ k out, k ≤ n + 1 ∧ Ends o (.gcd a b) k out := by
  have goOn {a b : Int} {k : Nat} {out : Except CommandFault Results} (h : b ≠ 0)
      (hends : Ends o (.gcd b (a.fmod b)) k out) : Ends o (.gcd a b) (k + 1) out :=
    .more (by rw [turn, if_neg h, emod_of_ne a h, Turn.from]) hends
  have finished (a : Int) : Ends o (.gcd a 0) 1 (.ok (gcdResults a)) := .last (by rw [turn, if_pos rfl])
  induction n using Nat.twoStepInduction generalizing a b with
  | zero =>
    rw [show Nat.fib (0 + 2) = 1 from rfl] at hfib
    obtain rfl : b = 0 := by omega
    exact ⟨1, _, le_rfl, finished a⟩
  | one =>
    rw [show Nat.fib (1 + 2) = 2 from rfl] at hfib
    obtain rfl | rfl : b = 0 ∨ b = 1 := by omega
    · exact ⟨1, _, by omega, finished a⟩
    · have hr : a.fmod 1 = 0 := (fmod_eq_zero_iff one_ne_zero).2 (one_dvd a)
      exact ⟨2, _, le_rfl, goOn one_ne_zero (hr ▸ finished 1)⟩
  | more n ih ih' =>
    rcases hb.eq_or_lt with rfl | hpos
    · exact ⟨1, _, by omega, finished a⟩
    have hr := Int.fmod_nonneg_of_pos a hpos
    have hlt := Int.fmod_lt_of_pos a hpos
    by_cases hsmall : a.fmod b < Nat.fib (n + 1 + 2)
    · obtain ⟨k, out, hk, hends⟩ := ih' (a := b) hr hsmall
      exact ⟨k + 1, out, by omega, goOn hpos.ne' hends⟩
    · have hfibpos : 0 < Nat.fib (n + 1 + 2) := Nat.fib_pos.2 (by omega)
      have hrpos : 0 < a.fmod b := by omega
      have hsub := fmod_le_sub hrpos hlt.le
      have hsum : Nat.fib (n + 2 + 2) = Nat.fib (n + 2) + Nat.fib (n + 1 + 2) := Nat.fib_add_two
      obtain ⟨k, out, hk, hends⟩ := ih (a := a.fmod b) (Int.fmod_nonneg_of_pos b hrpos) (by omega)
      exact ⟨k + 2, out, by omega, goOn hpos.ne' (goOn hrpos.ne' hends)⟩

/-- Settles O47: the Fibonacci number 93 is above I64, and the two operands need not be in order. -/
theorem gcdCompletesWithinNinetyOneIterations : Obligations.GcdCompletesWithinNinetyOneIterations := by
  intro s rest hi hs hrest
  refine completes_within (k := 93) hi hs hrest ?_
  rw [decode_encode]
  by_cases hneg : toInt s.opa < 0 ∨ toInt s.opb < 0
  · exact ⟨1, _, by omega, .last (if_pos hneg)⟩
  · have hfib : Nat.fib (91 + 2) = 12200160415121876738 := by norm_num
    have hin := (inI64_iff _).1 (inI64_toInt s.opb)
    obtain ⟨n, out, hn, hends⟩ := ends_gcd s.sample (n := 91) (a := toInt s.opa) (b := toInt s.opb) (by omega) (by omega)
    exact ⟨n + 1, out, by omega, .more (if_neg hneg) hends⟩

end Sys2Proof.Machine
end

section
/-! The extended Euclidean loop (file 42): its invariant, which bounds every value by the operands, and what it ends with. -/

namespace Sys2Proof.Machine

/-- What holds of the three pairs before every iteration of `xgcd(a, b)`: the pairs are combinations of `a` and `b` (R132 (b)), the
signs of the coefficients alternate with `σ`, and the cross products, which never change, bound their magnitudes (R132 (i)). -/
structure EuclidVals.Invariant (a b σ : Int) (v : EuclidVals) : Prop where
  unit : σ = 1 ∨ σ = -1
  r0 : 0 ≤ v.r0
  r1 : 0 ≤ v.r1
  bezout0 : a * v.s0 + b * v.t0 = v.r0
  bezout1 : a * v.s1 + b * v.t1 = v.r1
  gcd : Int.gcd v.r0 v.r1 = Int.gcd a b
  s0 : 0 ≤ σ * v.s0
  s1 : σ * v.s1 ≤ 0
  t0 : σ * v.t0 ≤ 0
  t1 : 0 ≤ σ * v.t1
  crossS : σ * (v.s0 * v.r1 - v.s1 * v.r0) = b
  crossT : σ * (v.t1 * v.r0 - v.t0 * v.r1) = a
  bound : (v.s1 = 0 ∧ v.r1 = b) ∨ (σ * v.s0 < b ∧ v.r1 < v.r0)

theorem invariant_start {a b : Int} (ha : 0 ≤ a) (hb : 0 ≤ b) : (EuclidVals.start a b).Invariant a b 1 := by
  constructor <;> simp [EuclidVals.start, ha, hb]

/-- The pairs after an iteration whose checks all pass (R130). -/
def EuclidVals.next (v : EuclidVals) : EuclidVals where
  r0 := v.r1
  r1 := v.r0.fmod v.r1
  s0 := v.s1
  s1 := v.s0 - v.r0.fdiv v.r1 * v.s1
  t0 := v.t1
  t1 := v.t0 - v.r0.fdiv v.r1 * v.t1

theorem xgcdIter_eq_next {v u : EuclidVals} (h : xgcdIter v = .ok u) : u = v.next := by
  obtain ⟨-, -, -, -, rfl⟩ := xgcdIter_eq_ok_iff.1 h
  rw [sub_fdiv_mul, EuclidVals.next]

theorem EuclidVals.Invariant.next {a b σ : Int} {v : EuclidVals} (h : v.Invariant a b σ) (h1 : v.r1 ≠ 0) :
    v.next.Invariant a b (-σ) := by
  obtain ⟨hunit, hr0, hr1, hb0, hb1, hgcd, hs0, hs1, ht0, ht1, hcs, hct, hbound⟩ := h
  have hpos : 0 < v.r1 := by omega
  have hmod : v.r0.fmod v.r1 = v.r0 - v.r1 * v.r0.fdiv v.r1 := Int.fmod_def _ _
  have hq : 0 ≤ v.r0.fdiv v.r1 := Int.fdiv_nonneg hr0 hr1
  have hqs : v.r0.fdiv v.r1 * (σ * v.s1) ≤ 0 := mul_nonpos_of_nonneg_of_nonpos hq hs1
  have hqt : 0 ≤ v.r0.fdiv v.r1 * (σ * v.t1) := mul_nonneg hq ht1
  constructor
  case unit => omega
  case r0 => exact hr1
  case r1 => exact Int.fmod_nonneg_of_pos _ hpos
  case bezout0 => exact hb1
  case bezout1 =>
    change a * (v.s0 - v.r0.fdiv v.r1 * v.s1) + b * (v.t0 - v.r0.fdiv v.r1 * v.t1) = v.r0.fmod v.r1
    rw [hmod]
    linear_combination hb0 - v.r0.fdiv v.r1 * hb1
  case gcd => exact (gcd_fmod _ hr1).trans hgcd
  case s0 => change 0 ≤ -σ * v.s1; linarith
  case s1 => change -σ * (v.s0 - v.r0.fdiv v.r1 * v.s1) ≤ 0; linarith
  case t0 => change -σ * v.t1 ≤ 0; linarith
  case t1 => change 0 ≤ -σ * (v.t0 - v.r0.fdiv v.r1 * v.t1); linarith
  case crossS =>
    change -σ * (v.s1 * v.r0.fmod v.r1 - (v.s0 - v.r0.fdiv v.r1 * v.s1) * v.r1) = b
    rw [hmod, ← hcs]; ring
  case crossT =>
    change -σ * ((v.t0 - v.r0.fdiv v.r1 * v.t1) * v.r1 - v.t1 * v.r0.fmod v.r1) = a
    rw [hmod, ← hct]; ring
  case bound =>
    refine .inr ⟨?_, Int.fmod_lt_of_pos _ hpos⟩
    change -σ * v.s1 < b
    rcases hbound with ⟨hs, hb⟩ | ⟨hlt, hdec⟩
    · rw [hs, mul_zero]; omega
    · have hsmall : -σ * v.s1 * 2 ≤ -σ * v.s1 * v.r0 := mul_le_mul_of_nonneg_left (by omega) (by linarith)
      have hcross : 0 ≤ σ * v.s0 * v.r1 := mul_nonneg hs0 hr1
      have hle : -σ * v.s1 * v.r0 ≤ b := by rw [← hcs]; linarith
      omega

theorem inI64_of_unit_mul {σ x n : Int} (hσ : σ = 1 ∨ σ = -1) (h0 : 0 ≤ σ * x) (hn : σ * x ≤ n) (h : inI64 n = true) :
    inI64 x = true := by
  rw [inI64_iff] at h ⊢
  rcases hσ with rfl | rfl <;> omega

/-- The product and the difference of an iteration lie in I64 when the difference, signed, is bounded (R132 (i)). -/
theorem checks_pass {σ q x0 x1 n : Int} (hσ : σ = 1 ∨ σ = -1) (hq : 0 ≤ q) (h0 : 0 ≤ σ * x0) (h1 : σ * x1 ≤ 0)
    (hn : σ * (x0 - q * x1) ≤ n) (hin : inI64 n = true) : inI64 (q * x1) = true ∧ inI64 (x0 - q * x1) = true := by
  have hprod : q * (σ * x1) ≤ 0 := mul_nonpos_of_nonneg_of_nonpos hq h1
  exact ⟨inI64_of_unit_mul (σ := -σ) (by omega) (by linarith) (by linarith) hin,
    inI64_of_unit_mul hσ (by linarith) hn hin⟩

/-- A non-negative part of a sum of non-negative terms, times at least 1, is at most the sum. -/
theorem le_of_mul_add_eq {x r y n : Int} (hx : 0 ≤ x) (hr : 1 ≤ r) (hy : 0 ≤ y) (h : x * r + y = n) : x ≤ n := by
  have hle : x ≤ x * r := le_mul_of_one_le_right hx hr
  omega

/-- No check of an iteration fails (R132 (i)). -/
theorem EuclidVals.Invariant.xgcdIter_eq {a b σ : Int} {v : EuclidVals} (h : v.Invariant a b σ) (h1 : v.r1 ≠ 0)
    (ha : inI64 a = true) (hb : inI64 b = true) : xgcdIter v = .ok v.next := by
  have hpos : 1 ≤ v.r1 := by have := h.r1; omega
  have hq : 0 ≤ v.r0.fdiv v.r1 := Int.fdiv_nonneg h.r0 h.r1
  obtain ⟨-, -, hr, -, -, -, hs0, hs1, ht0, ht1, hcs, hct, -⟩ := h.next h1
  have hs := checks_pass h.unit hq h.s0 h.s1 (le_of_mul_add_eq (r := v.r1) (y := -σ * v.s1 * v.r0.fmod v.r1)
    (by change -σ * (v.s0 - v.r0.fdiv v.r1 * v.s1) ≤ 0 at hs1; linarith) hpos (mul_nonneg hs0 hr) ?_) hb
  have ht := checks_pass (σ := -σ) (by have := h.unit; omega) hq (by have := h.t0; linarith) (by have := h.t1; linarith)
    (le_of_mul_add_eq (r := v.r1) (y := σ * v.t1 * v.r0.fmod v.r1) ht1 hpos (mul_nonneg h.t1 hr) ?_) ha
  · exact xgcdIter_eq_ok_iff.2 ⟨hs.1, hs.2, ht.1, ht.2, by rw [sub_fdiv_mul, EuclidVals.next]⟩
  · change -σ * ((v.t0 - v.r0.fdiv v.r1 * v.t1) * v.r1 - v.t1 * v.r0.fmod v.r1) = a at hct
    rw [← hct]; ring
  · change -σ * (v.s1 * v.r0.fmod v.r1 - (v.s0 - v.r0.fdiv v.r1 * v.s1) * v.r1) = b at hcs
    rw [← hcs]; ring

/-- On the way from the invariant the loop ends, fault-free, with the second remainder 0. -/
theorem EuclidVals.Invariant.xgcdLoop_eq {a b σ : Int} {v : EuclidVals} {fuel : Nat} (h : v.Invariant a b σ)
    (ha : inI64 a = true) (hb : inI64 b = true) (hfuel : v.r1.natAbs ≤ fuel) :
    ∃ u τ, xgcdLoop fuel v = .ok u ∧ u.r1 = 0 ∧ u.Invariant a b τ := by
  induction fuel generalizing v σ with
  | zero => exact ⟨v, σ, rfl, by omega, h⟩
  | succ fuel ih =>
    by_cases h1 : v.r1 = 0
    · exact ⟨v, σ, xgcdLoop_done _ h1, h1, h⟩
    · have hlt : v.next.r1.natAbs < v.r1.natAbs := natAbs_fmod_lt _ h1
      rw [xgcdLoop_succ_of_ne fuel h1, h.xgcdIter_eq h1 ha hb, bind_ok]
      exact ih (h.next h1) (by omega)

/-- What `xgcd` ends with: the remainder sequence is at its end, and the coefficients are bounded by the invariant. -/
theorem xgcd_invariant {a b : Int} (ha0 : 0 ≤ a) (hb0 : 0 ≤ b) (ha : inI64 a = true) (hb : inI64 b = true) :
    ∃ v σ, xgcd a b = .ok v ∧ v.r1 = 0 ∧ v.Invariant a b σ := by
  rw [xgcd_of_nonneg_eq_loop ha0 hb0]
  exact (invariant_start ha0 hb0).xgcdLoop_eq ha hb le_rfl

/-- The last remainder is the greatest common divisor (R132 (a)). -/
theorem EuclidVals.Invariant.r0_eq_gcd {a b σ : Int} {v : EuclidVals} (h : v.Invariant a b σ) (h1 : v.r1 = 0) :
    v.r0 = Int.gcd a b := by
  rw [← h.gcd, h1, Int.gcd_zero_right, Int.natAbs_of_nonneg h.r0]

/-- At the end the first coefficient is below a positive second operand in magnitude (R132 (i)). -/
theorem EuclidVals.Invariant.s0_bounds {a b σ : Int} {v : EuclidVals} (h : v.Invariant a b σ) (h1 : v.r1 = 0)
    (hb : 1 ≤ b) : -b < v.s0 ∧ v.s0 < b := by
  have hpos := h.s0
  have hlt : σ * v.s0 < b := by rcases h.bound with ⟨-, hr⟩ | ⟨hlt, -⟩ <;> omega
  rcases h.unit with rfl | rfl <;> omega

end Sys2Proof.Machine
end

section
/-! XGCD and MODINV (file 42): Bezout coefficients, which ones in the special cases, and the inverse normalised from them. -/

namespace Sys2Proof.Machine

/-! XGCD (R132, R133) -/

theorem runXgcd_of_ok {o : Operands} {v : EuclidVals} (h : xgcd o.a o.b = .ok v) : runXgcd o = .ok (xgcdResults v) := by
  rw [runXgcd, h]; rfl

theorem exec_xgcd_of_ok {s : State} {v : EuclidVals} (h : xgcd (toInt s.opa) (toInt s.opb) = .ok v) :
    ∃ t, exec .xgcd s = .next t ∧ s.Frame t ∧ t.Completed v.s0 v.t0 v.r0 false (v.r0 == 1) :=
  ⟨_, exec_xgcd s, execute_frame _ s, execute_completed_of_ok (i := .xgcd) (runXgcd_of_ok h)⟩

/-- Settles O49: the invariant gives the equation of the coefficients, and the loop's end the divisor. -/
theorem xgcdCommandLeavesBezoutCoefficients : Obligations.XgcdCommandLeavesBezoutCoefficients := by
  intro s ha hb
  obtain ⟨v, σ, hv, h1, hinv⟩ := xgcd_invariant ha hb (inI64_toInt _) (inI64_toInt _)
  obtain ⟨t, ht, hframe, hcompleted⟩ := exec_xgcd_of_ok hv
  have hgcd := hinv.r0_eq_gcd h1
  rw [hgcd] at hcompleted
  rw [← gcdResults_coprime]
  exact ⟨t, v.s0, v.t0, ht, hframe, hcompleted, hinv.bezout0.trans hgcd⟩

theorem xgcd_zero {a : Int} (ha : 0 ≤ a) : xgcd a 0 = .ok (.start a 0) := by
  rw [xgcd_of_nonneg_eq_loop ha le_rfl, xgcdLoop_done _ rfl]

/-- The first iteration, which no check of the start values stops (R130). -/
theorem xgcd_first {a b : Int} (ha0 : 0 ≤ a) (hb0 : 0 < b) (ha : inI64 a = true) (hb : inI64 b = true) :
    xgcd a b = xgcdLoop (a.fmod b).natAbs ⟨b, a.fmod b, 0, 1, 1, -a.fdiv b⟩ := by
  have hiter := (invariant_start ha0 hb0.le).xgcdIter_eq hb0.ne' ha hb
  have hnext : (EuclidVals.start a b).next = ⟨b, a.fmod b, 0, 1, 1, -a.fdiv b⟩ := by
    simp [EuclidVals.next, EuclidVals.start]
  rw [hnext] at hiter
  rw [xgcd_of_nonneg_eq_loop ha0 hb0.le]
  exact xgcdLoop_natAbs_of_ok hb0.ne' hiter

/-- A smaller first operand makes the first iteration swap the pairs (R132 (e)). -/
theorem xgcdIter_start_of_lt {a b : Int} (ha0 : 0 ≤ a) (h : a < b) :
    xgcdIter (.start a b) = .ok ⟨b, a, 0, 1, 1, 0⟩ := by
  have hq : a.fdiv b = 0 := by rw [Int.fdiv_eq_ediv_of_nonneg _ (by omega), Int.ediv_eq_zero_of_lt ha0 h]
  refine xgcdIter_eq_ok_iff.2 ?_
  simp only [EuclidVals.start, hq]
  exact ⟨rfl, rfl, rfl, rfl, by simp⟩

/-- A divisor as second operand ends the loop after one iteration (R132 (f)). -/
theorem xgcd_of_dvd {a b : Int} (ha0 : 0 ≤ a) (hb0 : 0 < b) (ha : inI64 a = true) (hb : inI64 b = true) (h : b ∣ a) :
    xgcd a b = .ok ⟨b, 0, 0, 1, 1, -a.fdiv b⟩ := by
  rw [xgcd_first ha0 hb0 ha hb, (fmod_eq_zero_iff hb0.ne').2 h]
  rfl

/-- The pairs with the two kinds of coefficients exchanged. -/
def EuclidVals.swap (v : EuclidVals) : EuclidVals := ⟨v.r0, v.r1, v.t0, v.t1, v.s0, v.s1⟩

/-- An iteration checks both kinds of coefficients alike. -/
theorem xgcdIter_swap {v u : EuclidVals} (h : xgcdIter v = .ok u) : xgcdIter v.swap = .ok u.swap := by
  obtain ⟨hs, hs', ht, ht', rfl⟩ := xgcdIter_eq_ok_iff.1 h
  exact xgcdIter_eq_ok_iff.2 ⟨ht, ht', hs, hs', rfl⟩

/-- The loop treats both kinds of coefficients alike. -/
theorem xgcdLoop_swap {fuel : Nat} {v u : EuclidVals} (h : xgcdLoop fuel v = .ok u) :
    xgcdLoop fuel v.swap = .ok u.swap := by
  induction fuel generalizing v with
  | zero => cases h; rfl
  | succ fuel ih =>
    by_cases h1 : v.r1 = 0
    · rw [xgcdLoop_done _ h1] at h
      cases h
      exact xgcdLoop_done _ h1
    · rw [xgcdLoop_succ_of_ne fuel h1] at h
      obtain ⟨w, hw, hu⟩ := bind_eq_ok.1 h
      exact (xgcdLoop_succ_of_ne (v := v.swap) fuel h1).trans (by rw [xgcdIter_swap hw, bind_ok, ih hu])

/-- Swapped operands, the smaller one first: one iteration puts them back in order with the coefficients exchanged (R132 (g)). -/
theorem xgcd_swap_of_lt {a b : Int} {v : EuclidVals} (ha0 : 0 ≤ a) (h : a < b) (hv : xgcd b a = .ok v) :
    xgcd a b = .ok v.swap := by
  rw [xgcd_of_nonneg_eq_loop (by omega) ha0] at hv
  rw [xgcd_of_nonneg_eq_loop ha0 (by omega)]
  exact (xgcdLoop_natAbs_of_ok (show b ≠ 0 by omega) (xgcdIter_start_of_lt ha0 h)).trans (xgcdLoop_swap hv)

/-- Two runs of the loop that agree on the remainders and one kind of coefficients end with the same of these. -/
theorem xgcdLoop_agree {fuel : Nat} {v v' u u' : EuclidVals} (hr0 : v.r0 = v'.r0) (hr1 : v.r1 = v'.r1) (hs0 : v.s0 = v'.s0)
    (hs1 : v.s1 = v'.s1) (h : xgcdLoop fuel v = .ok u) (h' : xgcdLoop fuel v' = .ok u') : u.s0 = u'.s0 ∧ u.r0 = u'.r0 := by
  induction fuel generalizing v v' with
  | zero => cases h; cases h'; exact ⟨hs0, hr0⟩
  | succ fuel ih =>
    by_cases h1 : v.r1 = 0
    · rw [xgcdLoop_done _ h1] at h
      rw [xgcdLoop_done _ (hr1 ▸ h1)] at h'
      cases h; cases h'
      exact ⟨hs0, hr0⟩
    · rw [xgcdLoop_succ_of_ne fuel h1] at h
      rw [xgcdLoop_succ_of_ne fuel (hr1 ▸ h1)] at h'
      obtain ⟨w, hw, hu⟩ := bind_eq_ok.1 h
      obtain ⟨w', hw', hu'⟩ := bind_eq_ok.1 h'
      obtain rfl := xgcdIter_eq_next hw
      obtain rfl := xgcdIter_eq_next hw'
      refine ih ?_ ?_ ?_ ?_ hu hu' <;> simp only [EuclidVals.next, hr0, hr1, hs0, hs1]

/-- Replacing the first operand by its remainder keeps the first coefficient and the divisor (R132 (h)). -/
theorem xgcd_fmod {a b : Int} {v : EuclidVals} (ha0 : 0 ≤ a) (hb0 : 0 < b) (ha : inI64 a = true) (hb : inI64 b = true)
    (hv : xgcd a b = .ok v) : ∃ u, xgcd (a.fmod b) b = .ok u ∧ u.s0 = v.s0 ∧ u.r0 = v.r0 := by
  have hmod0 := Int.fmod_nonneg_of_pos a hb0
  have hmod := inI64_fmod a hb0.ne' hb
  obtain ⟨u, -, hu, -, -⟩ := xgcd_invariant hmod0 hb0.le hmod hb
  refine ⟨u, hu, ?_⟩
  rw [xgcd_first ha0 hb0 ha hb] at hv
  rw [xgcd_first hmod0 hb0 hmod hb, Int.fmod_fmod] at hu
  refine xgcdLoop_agree ?_ ?_ ?_ ?_ hu hv <;> rfl

/-- Settles O50, case by case of R132 (c) to (h). -/
theorem xgcdCoefficientsInSpecialCases : Obligations.XgcdCoefficientsInSpecialCases := by
  intro a b ha hb ha0 hb0
  obtain ⟨v, -, hv, -, -⟩ := xgcd_invariant ha0 hb0 ha hb
  have divides (hpos : 0 < b) (hdvd : b ∣ a) : v.s0 = 0 ∧ v.t0 = 1 ∧ v.r0 = b := by
    rw [xgcd_of_dvd ha0 hpos ha hb hdvd] at hv
    cases hv
    exact ⟨rfl, rfl, rfl⟩
  refine ⟨v, hv, ?zero, ?first, fun h => xgcdIter_start_of_lt ha0 h, divides, fun hne => ?swap, fun hpos => ?fmod⟩
  case zero =>
    rintro rfl
    rw [xgcd_zero ha0] at hv
    cases hv
    exact ⟨rfl, rfl, rfl⟩
  case first => rintro rfl hpos; exact divides hpos (dvd_zero b)
  case swap =>
    obtain ⟨u, -, hu, -, -⟩ := xgcd_invariant hb0 ha0 hb ha
    rcases hne.lt_or_gt with hlt | hgt
    · have hswap := xgcd_swap_of_lt ha0 hlt hu
      rw [hv] at hswap
      cases hswap
      exact ⟨u, hu, rfl, rfl, rfl⟩
    · exact ⟨v.swap, xgcd_swap_of_lt hb0 hgt hv, rfl, rfl, rfl⟩
  case fmod => exact xgcd_fmod ha0 hpos ha hb hv

theorem runXgcd_of_neg {o : Operands} (h : o.a < 0 ∨ o.b < 0) : runXgcd o = .error .operandRange := by
  rw [runXgcd, xgcd_of_neg h, bind_error]

theorem runModinv_of_neg {o : Operands} (h : o.a < 0 ∨ o.b < 0) : runModinv o = .error .operandRange := by
  rw [runModinv, modinv, xgcd_of_neg h, bind_error, bind_error]

/-- Settles O48: both commands begin with `xgcd`, whose sign test comes first (R131). -/
theorem xgcdAndModinvFaultOnNegativeOperands : Obligations.XgcdAndModinvFaultOnNegativeOperands := by
  rintro i s (rfl | rfl) hneg
  · exact ⟨_, exec_xgcd s, execute_frame _ s, execute_faulted (runXgcd_of_neg hneg)⟩
  · exact ⟨_, exec_modinv s, execute_frame _ s, execute_faulted (runModinv_of_neg hneg)⟩

/-! MODINV (R135 to R137) -/

/-- `modinv` never faults on non-negative arguments: a negative coefficient is above `-m`, so one addition makes it a residue. -/
theorem modinv_of_nonneg {a m : Int} {v : EuclidVals} (ha0 : 0 ≤ a) (hm0 : 0 ≤ m) (ha : inI64 a = true)
    (hm : inI64 m = true) (hv : xgcd a m = .ok v) :
    modinv a m = .ok (if 0 ≤ v.s0 then v.s0 else v.s0 + m, v.r0) := by
  obtain ⟨v', σ, hv', h1, hinv⟩ := xgcd_invariant ha0 hm0 ha hm
  obtain rfl := Except.ok.inj (hv.symm.trans hv')
  rw [modinv, hv, bind_ok]
  split
  case isTrue h => rw [normalise_of_nonneg m h]; rfl
  case isFalse h =>
    have hpos : 1 ≤ m := by
      by_contra hlt
      obtain rfl : m = 0 := by omega
      rw [xgcd_zero ha0] at hv
      cases hv
      exact h zero_le_one
    have hbounds := hinv.s0_bounds h1 hpos
    have hin : inI64 (v.s0 + m) = true := by rw [inI64_iff] at hm ⊢; omega
    rw [normalise_of_neg (by omega) hin]; rfl

theorem runModinv_of_ok {o : Operands} {d g : Int} (h : modinv o.a o.b = .ok (d, g)) :
    runModinv o = .ok (modinvResults d g) := by rw [runModinv, h]; rfl

theorem exec_modinv_of_ok {s : State} {d g : Int} (h : modinv (toInt s.opa) (toInt s.opb) = .ok (d, g)) :
    ∃ t, exec .modinv s = .next t ∧ s.Frame t ∧ t.Completed d 0 g false (g == 1) :=
  ⟨_, exec_modinv s, execute_frame _ s, execute_completed_of_ok (i := .modinv) (runModinv_of_ok h)⟩

/-- Settles O51: `modinv` is `xgcd` with its first coefficient normalised. -/
theorem modinvNormalisesTheCoefficientOfXgcd : Obligations.ModinvNormalisesTheCoefficientOfXgcd := by
  intro s ha hb
  obtain ⟨v, -, hv, -, -⟩ := xgcd_invariant ha hb (inI64_toInt _) (inI64_toInt _)
  obtain ⟨t, ht, hframe, hcompleted⟩ := exec_modinv_of_ok (modinv_of_nonneg ha hb (inI64_toInt _) (inI64_toInt _) hv)
  obtain ⟨u, hu, -, hxgcd⟩ := exec_xgcd_of_ok hv
  refine ⟨t, u, ht, hu, hframe, ?_⟩
  rwa [hxgcd.res0, hxgcd.res2, hxgcd.coprime]

/-- For a positive modulus `modinv` gives a residue that is the gcd over `a` modulo `m` (R137 (a), (b)). -/
theorem modinv_residue {a m : Int} (ha0 : 0 ≤ a) (hm1 : 1 ≤ m) (ha : inI64 a = true) (hm : inI64 m = true) :
    ∃ d, modinv a m = .ok (d, (Int.gcd a m : Int)) ∧ 0 ≤ d ∧ d ≤ m - 1 ∧ m ∣ a * d - Int.gcd a m := by
  obtain ⟨v, σ, hv, h1, hinv⟩ := xgcd_invariant ha0 (by omega) ha hm
  have hbounds := hinv.s0_bounds h1 hm1
  refine ⟨_, (hinv.r0_eq_gcd h1) ▸ modinv_of_nonneg ha0 (by omega) ha hm hv, ?_⟩
  rw [← hinv.r0_eq_gcd h1]
  split
  · exact ⟨by omega, by omega, -v.t0, by linear_combination hinv.bezout0⟩
  · exact ⟨by omega, by omega, a - v.t0, by linear_combination hinv.bezout0⟩

/-- Settles O52: MODINV is the lifecycle around `modinv`. -/
theorem modinvLeavesAResidue : Obligations.ModinvLeavesAResidue := by
  intro s ha hm
  obtain ⟨d, hd, hresidue⟩ := modinv_residue ha hm (inI64_toInt _) (inI64_toInt _)
  obtain ⟨t, ht, hframe, hcompleted⟩ := exec_modinv_of_ok hd
  rw [← gcdResults_coprime]
  exact ⟨t, d, ht, hframe, hcompleted, hresidue⟩

theorem emod_eq_one_iff {x m : Int} (hm : 2 ≤ m) : emod x m = .ok 1 ↔ m ∣ x - 1 := by
  rw [emod_eq_ok_iff, eq_fmod_iff (by omega)]
  constructor
  · rintro ⟨-, hdvd, -⟩; exact hdvd
  · intro hdvd; exact ⟨by omega, hdvd, by omega, by omega⟩

/-- Settles O53: the residue is an inverse, and a coprime number can be cancelled. -/
theorem modinvInvertsACoprimeOperand : Obligations.ModinvInvertsACoprimeOperand := by
  intro s ha hm hgcd
  obtain ⟨d, hd, h0, hle, hdvd⟩ := modinv_residue ha (m := toInt s.opb) (by omega) (inI64_toInt _) (inI64_toInt _)
  rw [hgcd, Nat.cast_one] at hd hdvd
  obtain ⟨t, ht, hframe, hcompleted⟩ := exec_modinv_of_ok hd
  have hne : d ≠ 0 := by
    rintro rfl
    rw [mul_zero, zero_sub, dvd_neg] at hdvd
    have := Int.le_of_dvd one_pos hdvd
    omega
  refine ⟨t, d, ht, hframe, hcompleted, by omega, by omega, (emod_eq_one_iff hm).2 hdvd, fun d' hpos' hlt' hinv' => ?_⟩
  have hmul : toInt s.opb ∣ toInt s.opa * (d' - d) := by
    rw [show toInt s.opa * (d' - d) = (toInt s.opa * d' - 1) - (toInt s.opa * d - 1) by ring]
    exact dvd_sub ((emod_eq_one_iff hm).1 hinv') hdvd
  have hdiff : toInt s.opb ∣ d' - d := (Int.isCoprime_iff_gcd_eq_one.2 (Int.gcd_comm _ _ ▸ hgcd)).dvd_of_dvd_mul_left hmul
  have hzero : d' - d = 0 := Int.eq_zero_of_abs_lt_dvd hdiff (abs_lt.2 (by omega))
  omega

/-- Two states with the same STATUS in which a command's function comes to the same get the same results and STATUS. -/
theorem execute_results_congr {run : Operands → Except CommandFault Results} {s s' : State}
    (h : run s.sample = run s'.sample) (hstatus : s.status = s'.status) :
    (s.execute run).res0 = (s'.execute run).res0 ∧ (s.execute run).res1 = (s'.execute run).res1 ∧
      (s.execute run).res2 = (s'.execute run).res2 ∧ (s.execute run).status = (s'.execute run).status := by
  unfold State.execute
  rw [h]
  cases run s'.sample <;> simp [hstatus]

/-- Settles O54: the degenerate operands are cases of `xgcd`'s, and it sees an operand only through its remainder. -/
theorem modinvOnDegenerateOperands : Obligations.ModinvOnDegenerateOperands := by
  intro s ha
  have hain := inI64_toInt s.opa
  have hmin := inI64_toInt s.opb
  have divides (hpos : 0 < toInt s.opb) (hdvd : toInt s.opb ∣ toInt s.opa) :
      ∃ t, exec .modinv s = .next t ∧ s.Frame t ∧ t.Completed 0 0 (toInt s.opb) false (toInt s.opb == 1) :=
    exec_modinv_of_ok (modinv_of_nonneg ha hpos.le hain hmin (xgcd_of_dvd ha hpos hain hmin hdvd))
  refine ⟨fun hone => ?one, fun hzero => ?zero, fun ha0 hpos => divides hpos (ha0 ▸ dvd_zero _), fun hpos => ?fmod⟩
  case one =>
    rw [hone] at divides
    exact divides one_pos (one_dvd _)
  case zero =>
    have hmodinv : modinv (toInt s.opa) (toInt s.opb) = .ok (1, toInt s.opa) := by
      rw [hzero]
      exact modinv_of_nonneg ha le_rfl hain rfl (xgcd_zero ha)
    exact exec_modinv_of_ok hmodinv
  case fmod =>
    obtain ⟨v, -, hv, -, -⟩ := xgcd_invariant ha hpos.le hain hmin
    obtain ⟨u, hu, hs0, hr0⟩ := xgcd_fmod ha hpos hain hmin hv
    have hreduced := inI64_fmod (toInt s.opa) hpos.ne' hmin
    have hsample : State.sample { s with opa := toBits ((toInt s.opa).fmod (toInt s.opb)) } =
        ⟨(toInt s.opa).fmod (toInt s.opb), toInt s.opb, toInt s.opc⟩ :=
      congrArg (fun a => (⟨a, toInt s.opb, toInt s.opc⟩ : Operands)) (toInt_toBits hreduced)
    have hrun : runModinv s.sample =
        runModinv (State.sample { s with opa := toBits ((toInt s.opa).fmod (toInt s.opb)) }) := by
      have h := modinv_of_nonneg ha hpos.le hain hmin hv
      have h' := modinv_of_nonneg (Int.fmod_nonneg_of_pos _ hpos) hpos.le hreduced hmin hu
      rw [hs0, hr0] at h'
      rw [hsample]
      exact (runModinv_of_ok (o := s.sample) h).trans (runModinv_of_ok (o := ⟨_, _, toInt s.opc⟩) h').symm
    exact ⟨_, _, exec_modinv s, exec_modinv _, execute_results_congr hrun rfl⟩

end Sys2Proof.Machine
end

section
/-! The Fermat tester (file 43): what one witness comes to, the scan as the search for the first witness that does not pass, and the
verdict. -/

namespace Sys2Proof.Machine

/-! One witness (R150) -/

/-- The witness is coprime to `n`, and the computation of its power leaves I64. -/
def fermatOverflows (n : Int) (w : Nat) : Prop := Int.gcd w n = 1 ∧ modpow w (n - 1) n = .error .overflow

theorem fmod_eq_one_iff {x m : Int} (hm : 2 ≤ m) : x.fmod m = 1 ↔ m ∣ x - 1 := by
  rw [← emod_eq_one_iff hm, emod_of_ne x (by omega), Except.ok.injEq]

theorem powerTest_of_ne {n a g : Int} (h : g ≠ 1) : powerTest n a g = .ok false := if_neg h

theorem powerTest_one {n : Int} (a : Int) (h : inI64 (n - 1) = true) :
    powerTest n a 1 = modpow a (n - 1) n >>= fun r => emod r n >>= fun r => .ok (r != 1) := by
  rw [powerTest, if_pos rfl, chk_of_inI64 h, bind_ok]
  rfl

/-- A witness passes, violates, or overflows. -/
theorem fermatViolates_cases {n : Int} (hn : 2 ≤ n) (hin : inI64 n = true) (w : Nat) :
    (fermatViolates n w = .ok false ∧ ¬fermatOverflows n w ∧ ¬fermatViolation n w) ∨
    (fermatViolates n w = .ok true ∧ ¬fermatOverflows n w ∧ fermatViolation n w) ∨
    (fermatViolates n w = .error .overflow ∧ fermatOverflows n w) := by
  have hpred : inI64 (n - 1) = true := by rw [inI64_iff] at hin ⊢; omega
  rw [fermatViolates_eq, gcd_of_nonneg (Int.natCast_nonneg w) (by omega), bind_ok, fermatOverflows]
  by_cases hg : Int.gcd w n = 1
  · rw [hg, Nat.cast_one, powerTest_one w hpred]
    cases hpow : modpow w (n - 1) n with
    | error f =>
      obtain rfl := modpow_error (by omega) (by omega) hpow
      exact .inr (.inr ⟨rfl, rfl, rfl⟩)
    | ok r =>
      have hresidue : r.fmod n = 1 ↔ n ∣ (w : Int) ^ (n.toNat - 1) - 1 := by
        rw [fmod_eq_of_modEq (by omega) (modpow_modEq hpow), fmod_eq_one_iff hn, Int.pred_toNat]
      rw [bind_ok, emod_of_ne r (by omega), bind_ok]
      by_cases hone : r.fmod n = 1
      · exact .inl ⟨by rw [hone]; rfl, nofun, fun h => h.2 (hresidue.1 hone)⟩
      · exact .inr (.inl ⟨by rw [bne_iff_ne.2 hone], nofun, hg, fun h => hone (hresidue.2 h)⟩)
  · rw [powerTest_of_ne (by exact_mod_cast hg)]
    exact .inl ⟨rfl, fun h => hg h.1, fun h => hg h.1⟩

/-- Up to the largest modulus of the overflow-free range no witness overflows (R154 (c)). -/
theorem not_fermatOverflows {n : Int} {w : Nat} (hn : 2 ≤ n) (hle : n ≤ 3037000500) (hw : w < Config.witnessLimit) :
    ¬fermatOverflows n w := by
  rintro ⟨-, hpow⟩
  have hlimit : Config.witnessLimit = 1000000 := rfl
  rw [modpow_of_overflowFree (by omega) (abs_le.2 (by omega)) (abs_le.2 (by omega)) (by omega)] at hpow
  cases hpow

/-- A number has the violation of its residue (R154 (b)). -/
theorem fermatViolation_mod (n w : Nat) : fermatViolation n (w % n) ↔ fermatViolation n w := by
  have hmod : ((w % n : Nat) : Int) ≡ w [ZMOD n] := by rw [Int.natCast_mod]; exact Int.mod_modEq _ _
  have hpow := hmod.pow ((n : Int).toNat - 1)
  have hgcd : Int.gcd ((w % n : Nat) : Int) n = Int.gcd w n := by
    rw [Int.gcd_natCast_natCast, Int.gcd_natCast_natCast, ← Nat.gcd_rec, Nat.gcd_comm]
  rw [fermatViolation, fermatViolation, hgcd, (hpow.sub_right 1).dvd_iff]

/-! The scan (R150, R151) -/

/-- Witnesses that pass are skipped. -/
theorem fermatScan_skip {n : Int} {k count a : Nat} (h : ∀ v, a ≤ v → v < a + k → fermatViolates n v = .ok false) :
    fermatScan n (k + count) a = fermatScan n count (a + k) := by
  induction k generalizing a with
  | zero => rw [Nat.zero_add, Nat.add_zero]
  | succ k ih =>
    rw [show k + 1 + count = k + count + 1 by omega, fermatScan_succ, h a le_rfl (by omega), bind_ok,
      if_neg Bool.false_ne_true, ih fun v hv hlt => h v (by omega) (by omega), show a + 1 + k = a + (k + 1) by omega]

/-- The first witness that does not pass decides. -/
theorem fermatScan_of_stop {n : Int} {count a w : Nat} (hlo : a ≤ w) (hhi : w < a + count)
    (hpass : ∀ v, a ≤ v → v < w → fermatViolates n v = .ok false) (hstop : fermatViolates n w ≠ .ok false) :
    fermatScan n count a = fermatViolates n w >>= fun _ => .ok (0, (w : Int)) := by
  obtain ⟨k, rfl⟩ : ∃ k, w = a + k := ⟨w - a, by omega⟩
  rw [show count = k + (count - k - 1 + 1) by omega, fermatScan_skip hpass, fermatScan_succ]
  rcases hw : fermatViolates n ((a + k : Nat) : Int) with f | (_ | _)
  · rfl
  · exact absurd hw hstop
  · rfl

theorem fermatScan_of_pass {n : Int} {count a : Nat} (h : ∀ v, a ≤ v → v < a + count → fermatViolates n v = .ok false) :
    fermatScan n count a = .ok (1, 0) := fermatScan_skip (count := 0) h

/-- Either all witnesses of a range pass or there is a first one that does not. -/
theorem passes_or_stops (n : Int) (a count : Nat) :
    (∀ v, a ≤ v → v < a + count → fermatViolates n v = .ok false) ∨
    ∃ w, a ≤ w ∧ w < a + count ∧ (∀ v, a ≤ v → v < w → fermatViolates n v = .ok false) ∧
      fermatViolates n w ≠ .ok false := by
  by_cases hall : ∀ v, a ≤ v → v < a + count → fermatViolates n v = .ok false
  · exact .inl hall
  · push Not at hall
    classical
    obtain ⟨hlo, hhi, hstop⟩ := Nat.find_spec hall
    refine .inr ⟨Nat.find hall, hlo, hhi, fun v hv hlt => ?_, hstop⟩
    by_contra hne
    exact Nat.find_min hall hlt ⟨hv, by omega, hne⟩

/-! FERMAT (R152 to R154) -/

theorem fermat_eq (n : Int) : fermat n = fermatScan n 999999 1 := rfl

theorem runFermat_of_fermat {o : Operands} {v w : Int} (h : fermat o.a = .ok (v, w)) : runFermat o = .ok (fermatResults v w) := by
  rw [runFermat, h]; rfl

theorem runFermat_of_error {o : Operands} {f : CommandFault} (h : fermat o.a = .error f) : runFermat o = .error f := by
  rw [runFermat, h]; rfl

theorem exec_fermat_of_ok {s : State} {v w : Int} (h : fermat (toInt s.opa) = .ok (v, w)) :
    ∃ t, exec .fermat s = .next t ∧ s.Frame t ∧ t.Completed v w 0 (v == 1) false :=
  ⟨_, exec_fermat s, execute_frame _ s, execute_completed_of_ok (i := .fermat) (runFermat_of_fermat h)⟩

theorem exec_fermat_of_error {s : State} {f : CommandFault} (h : fermat (toInt s.opa) = .error f) :
    ∃ t, exec .fermat s = .next t ∧ s.Frame t ∧ t.Faulted f :=
  ⟨_, exec_fermat s, execute_frame _ s, execute_faulted (runFermat_of_error h)⟩

/-- The outcome of `fermat` on every `n ≥ 2`. -/
theorem fermat_cases {n : Int} (hn : 2 ≤ n) (hin : inI64 n = true) :
    ((∀ w : Nat, 1 ≤ w → w < 1000000 → ¬fermatOverflows n w ∧ ¬fermatViolation n w) ∧ fermat n = .ok (1, 0)) ∨
    ∃ w : Nat, 1 ≤ w ∧ w < 1000000 ∧ (∀ v : Nat, 1 ≤ v → v < w → ¬fermatOverflows n v ∧ ¬fermatViolation n v) ∧
      ((¬fermatOverflows n w ∧ fermatViolation n w ∧ fermat n = .ok (0, (w : Int))) ∨
       (fermatOverflows n w ∧ fermat n = .error .overflow)) := by
  have passes {w : Nat} (h : fermatViolates n w = .ok false) : ¬fermatOverflows n w ∧ ¬fermatViolation n w := by
    rcases fermatViolates_cases hn hin w with ⟨-, hpass⟩ | ⟨h', -⟩ | ⟨h', -⟩
    · exact hpass
    · rw [h] at h'; cases h'
    · rw [h] at h'; cases h'
  rw [fermat_eq]
  rcases passes_or_stops n 1 999999 with hall | ⟨w, hlo, hhi, hpass, hstop⟩
  · exact .inl ⟨fun w h1 hw => passes (hall w h1 (by omega)), fermatScan_of_pass hall⟩
  · refine .inr ⟨w, hlo, by omega, fun v h1 hv => passes (hpass v h1 hv), ?_⟩
    rw [fermatScan_of_stop hlo hhi hpass hstop]
    rcases fermatViolates_cases hn hin w with ⟨h, -⟩ | ⟨h, hno, hviol⟩ | ⟨h, hover⟩
    · exact absurd h hstop
    · exact .inl ⟨hno, hviol, by rw [h, bind_ok]⟩
    · exact .inr ⟨hover, by rw [h, bind_error]⟩

/-- Settles O59: the scan stops at the first witness that violates or overflows. -/
theorem fermatOutcomeOnEveryOperandFromTwo : Obligations.FermatOutcomeOnEveryOperandFromTwo := by
  intro s hn
  rcases fermat_cases hn (inI64_toInt s.opa) with ⟨hall, hfermat⟩ | ⟨w, h1, hw, hpass, ⟨hno, hviol, hfermat⟩ | ⟨hover, hfermat⟩⟩
  · obtain ⟨t, ht, hframe, hcompleted⟩ := exec_fermat_of_ok hfermat
    exact ⟨t, ht, hframe, .inl ⟨hall, hcompleted⟩⟩
  · obtain ⟨t, ht, hframe, hcompleted⟩ := exec_fermat_of_ok hfermat
    exact ⟨t, ht, hframe, .inr ⟨w, h1, hw, hpass, .inl ⟨hno, hviol, hcompleted⟩⟩⟩
  · obtain ⟨t, ht, hframe, hfaulted⟩ := exec_fermat_of_error hfermat
    exact ⟨t, ht, hframe, .inr ⟨w, h1, hw, hpass, .inr ⟨hover, hfaulted⟩⟩⟩

/-- Settles O55: in the overflow-free range only the violations are left of the outcomes. -/
theorem fermatCommandGivesTheVerdict : Obligations.FermatCommandGivesTheVerdict := by
  intro s hn hle
  obtain ⟨t, ht, hframe, houtcome⟩ := fermatOutcomeOnEveryOperandFromTwo s hn
  refine ⟨t, ht, hframe, ?_⟩
  rcases houtcome with ⟨hall, hcompleted⟩ | ⟨w, h1, hw, hpass, ⟨-, hviol, hcompleted⟩ | ⟨hover, -⟩⟩
  · exact .inl ⟨fun w h1 hw => (hall w h1 hw).2, hcompleted⟩
  · exact .inr ⟨w, h1, hw, hviol, fun v h1 hv => (hpass v h1 hv).2, hcompleted⟩
  · exact absurd hover (not_fermatOverflows hn hle hw)

/-- Fermat's little theorem: a prime has no violating witness (R154 (d)). -/
theorem not_fermatViolation_of_prime {p : Nat} (hp : p.Prime) (w : Nat) : ¬fermatViolation p w := by
  rintro ⟨hgcd, hdvd⟩
  have hpow := Int.ModEq.pow_card_sub_one_eq_one hp (Int.isCoprime_iff_gcd_eq_one.2 hgcd)
  exact hdvd (Int.modEq_iff_dvd.1 hpow.symm)

/-- Settles O56: the composite verdict would need a violating witness. -/
theorem fermatDeclaresPrimesPrime : Obligations.FermatDeclaresPrimesPrime := by
  intro s hp hle
  have h2 := hp.two_le
  have hcast : ((toInt s.opa).toNat : Int) = toInt s.opa := Int.toNat_of_nonneg (by omega)
  obtain ⟨t, ht, hframe, ⟨-, hcompleted⟩ | ⟨w, -, -, hviol, -, -⟩⟩ := fermatCommandGivesTheVerdict s (by omega) hle
  · exact ⟨t, ht, hframe, hcompleted⟩
  · rw [← hcast] at hviol
    exact absurd hviol (not_fermatViolation_of_prime hp w)

/-- The first witness decides at once when it faults. -/
theorem fermat_of_first_error {n : Int} {f : CommandFault} (h : fermatViolates n 1 = .error f) : fermat n = .error f := by
  rw [fermat_eq, fermatScan_of_stop (w := 1) le_rfl (by omega) (fun v hv hlt => by omega) (by rw [Nat.cast_one, h]; nofun),
    Nat.cast_one, h, bind_error]

theorem fermat_of_neg {n : Int} (h : n < 0) : fermat n = .error .operandRange :=
  fermat_of_first_error (by rw [fermatViolates_eq, gcd_of_neg (.inr h), bind_error])

theorem fermat_of_lt_two {n : Int} (h0 : 0 ≤ n) (h2 : n < 2) : fermat n = .error .exponentRange := by
  refine fermat_of_first_error ?_
  have hin : inI64 (n - 1) = true := by rw [inI64_iff]; omega
  rw [fermatViolates_eq, gcd_of_nonneg zero_le_one h0, Int.one_gcd, Nat.cast_one, bind_ok, powerTest_one 1 hin,
    modpow_of_lt_one (by omega), bind_error]

/-- Settles O57: the first witness faults, in its gcd or at the exponent `n - 1`. -/
theorem fermatFaultsBelowTwo : Obligations.FermatFaultsBelowTwo := fun _ =>
  ⟨fun hneg => exec_fermat_of_error (fermat_of_neg hneg),
    fun hsmall => exec_fermat_of_error (fermat_of_lt_two (by omega) (by omega))⟩

/-- For `n` below WITNESS_LIMIT the witnesses from `n` on pass if those below `n` do: each has a residue among them, or shares the
factor `n` (R154 (b)). -/
theorem passes_of_passes_below {n : Nat} (h2 : 2 ≤ n) (hlt : n < Config.witnessLimit)
    (h : ∀ v : Nat, 1 ≤ v → v < n → fermatViolates n v = .ok false) {w : Nat} (hw : w < Config.witnessLimit) :
    fermatViolates n w = .ok false := by
  have hlimit : Config.witnessLimit = 1000000 := rfl
  have hin : inI64 (n : Int) = true := inI64_witness hlt.le
  have hnot : ¬fermatViolation n w := by
    rw [← fermatViolation_mod]
    rcases Nat.eq_zero_or_pos (w % n) with hzero | hpos
    · rintro ⟨hgcd, -⟩
      rw [hzero, Nat.cast_zero, Int.gcd_zero_left, Int.natAbs_natCast] at hgcd
      omega
    · rcases fermatViolates_cases (by omega) hin (w % n) with ⟨-, -, hnot⟩ | ⟨hviol, -⟩ | ⟨hover, -⟩
      · exact hnot
      · rw [h _ hpos (Nat.mod_lt _ (by omega))] at hviol; cases hviol
      · rw [h _ hpos (Nat.mod_lt _ (by omega))] at hover; cases hover
  rcases fermatViolates_cases (by omega) hin w with ⟨hpass, -⟩ | ⟨-, -, hviol⟩ | ⟨-, hover⟩
  · exact hpass
  · exact absurd hviol hnot
  · exact absurd hover (not_fermatOverflows (by omega) (by omega) hw)

/-- The scan over all witnesses is the scan over those below `n` (R154 (b)). -/
theorem fermat_eq_scan_below {n : Nat} (h2 : 2 ≤ n) : fermat n = fermatScan n (min n Config.witnessLimit - 1) 1 := by
  rcases le_or_gt Config.witnessLimit n with hge | hlt
  · rw [min_eq_right hge, fermat]
  · rw [min_eq_left hlt.le, fermat]
    rcases passes_or_stops n 1 (n - 1) with hall | ⟨w, hlo, hhi, hpass, hstop⟩
    · have hpass := fun w => passes_of_passes_below h2 hlt (fun v h1 hv => hall v h1 (by omega)) (w := w)
      rw [fermatScan_of_pass hall, fermatScan_of_pass fun v h1 hv => hpass v (by omega)]
    · rw [fermatScan_of_stop hlo hhi hpass hstop, fermatScan_of_stop hlo (by omega) hpass hstop]

theorem fermatScan_witness_lt {n : Int} {count a : Nat} {w : Int} (h : fermatScan n count a = .ok (0, w)) : w < a + count := by
  rcases passes_or_stops n a count with hall | ⟨v, hlo, hhi, hpass, hstop⟩
  · rw [fermatScan_of_pass hall] at h; cases h
  · rw [fermatScan_of_stop hlo hhi hpass hstop] at h
    obtain ⟨-, -, h⟩ := bind_eq_ok.1 h
    cases h
    omega

/-- Settles O58: each witness from `n` on has the outcome of its residue, and the reported witness is among those scanned. -/
theorem fermatScanNeedsOnlyWitnessesBelowN : Obligations.FermatScanNeedsOnlyWitnessesBelowN := by
  intro n hn
  obtain ⟨n, rfl⟩ := Int.eq_ofNat_of_zero_le (show 0 ≤ n by omega)
  have hscan := fermat_eq_scan_below (n := n) (by omega)
  refine ⟨hscan, fun w hw => ?_⟩
  have hlt := fermatScan_witness_lt (hscan.symm.trans hw)
  omega

end Sys2Proof.Machine
end

section
/-! The faults and the flags of the commands (files 10 and 60): which command can end how, on which operands. -/

namespace Sys2Proof.Machine

/-- A recorded fault is the one the function ended with (R95). -/
theorem error_of_execute_faulted {run : Operands → Except CommandFault Results} {s : State} {f : CommandFault}
    (h : (s.execute run).Faulted f) : run s.sample = .error f := by
  rcases execute_cases run s with ⟨r, -, ht⟩ | ⟨g, hg, -⟩
  · have herr := h.err
    rw [ht] at herr
    simp at herr
  · rw [hg, CommandFault.code_injective ((execute_faulted hg).errcode.symm.trans h.errcode)]

theorem runEmod_error {o : Operands} {f : CommandFault} (h : runEmod o = .error f) : f = .divideByZero ∧ o.b = 0 := by
  by_cases hb : o.b = 0
  · rw [runEmod_of_zero hb] at h; cases h; exact ⟨rfl, hb⟩
  · rw [runEmod_of_ne hb] at h; cases h

/-- The faults of `modpow` and the arguments each needs (R111, R182). -/
theorem modpow_error_cases {base e m : Int} {f : CommandFault} (h : modpow base e m = .error f) :
    (f = .exponentRange ∧ e < 1) ∨ (f = .divideByZero ∧ 2 ≤ e ∧ m = 0 ∧ inI64 (base * base) = true) ∨
    (f = .overflow ∧ 2 ≤ e ∧ ¬(1 ≤ |m| ∧ |m| ≤ 3037000500 ∧ |base| ≤ 3037000499)) := by
  rcases lt_or_ge e 1 with hlt | h1
  · rw [modpow_of_lt_one hlt] at h; cases h; exact .inl ⟨rfl, hlt⟩
  have h2 : 2 ≤ e := by
    by_contra hlt
    obtain rfl : e = 1 := by omega
    cases h
  cases hsq : inI64 (base * base) with
  | false =>
    rw [modpow_first_overflow m h2 hsq] at h
    cases h
    refine .inr (.inr ⟨rfl, h2, fun ⟨_, _, hbase⟩ => ?_⟩)
    rw [(inI64_mul_self_iff base).2 hbase] at hsq
    cases hsq
  | true =>
    by_cases hm : m = 0
    · subst hm; rw [modpow_zero h2 hsq] at h; cases h; exact .inr (.inl ⟨rfl, h2, rfl, rfl⟩)
    · refine .inr (.inr ⟨modpow_error h1 hm h, h2, fun ⟨_, hle, hbase⟩ => ?_⟩)
      rw [modpow_of_overflowFree hm hle hbase h1] at h
      cases h

theorem runModpow_error {o : Operands} {f : CommandFault} (h : runModpow o = .error f) : modpow o.a o.b o.c = .error f := by
  cases hpow : modpow o.a o.b o.c with
  | ok r => rw [runModpow_of_ok hpow] at h; cases h
  | error g => rw [runModpow_of_error hpow] at h; cases h; rfl

theorem runGcd_error {o : Operands} {f : CommandFault} (h : runGcd o = .error f) :
    f = .operandRange ∧ (o.a < 0 ∨ o.b < 0) := by
  by_cases hneg : o.a < 0 ∨ o.b < 0
  · rw [runGcd_of_neg hneg] at h; cases h; exact ⟨rfl, hneg⟩
  · rw [runGcd_of_nonneg (by omega) (by omega)] at h; cases h

theorem runXgcd_error {o : Operands} {f : CommandFault} (ho : o.inRange = true) (h : runXgcd o = .error f) :
    f = .operandRange ∧ (o.a < 0 ∨ o.b < 0) := by
  obtain ⟨ha, hb, -⟩ := (Operands.inRange_iff o).1 ho
  by_cases hneg : o.a < 0 ∨ o.b < 0
  · rw [runXgcd_of_neg hneg] at h; cases h; exact ⟨rfl, hneg⟩
  · obtain ⟨v, -, hv, -, -⟩ := xgcd_invariant (a := o.a) (b := o.b) (by omega) (by omega) ha hb
    rw [runXgcd_of_ok hv] at h; cases h

theorem runModinv_error {o : Operands} {f : CommandFault} (ho : o.inRange = true) (h : runModinv o = .error f) :
    f = .operandRange ∧ (o.a < 0 ∨ o.b < 0) := by
  obtain ⟨ha, hb, -⟩ := (Operands.inRange_iff o).1 ho
  by_cases hneg : o.a < 0 ∨ o.b < 0
  · rw [runModinv_of_neg hneg] at h; cases h; exact ⟨rfl, hneg⟩
  · obtain ⟨v, -, hv, -, -⟩ := xgcd_invariant (a := o.a) (b := o.b) (by omega) (by omega) ha hb
    rw [runModinv_of_ok (modinv_of_nonneg (by omega) (by omega) ha hb hv)] at h; cases h

/-- The faults of `fermat` and the arguments each needs (R153, R182). -/
theorem runFermat_error {o : Operands} {f : CommandFault} (ho : o.inRange = true) (h : runFermat o = .error f) :
    (f = .exponentRange ∧ (o.a = 0 ∨ o.a = 1)) ∨ (f = .operandRange ∧ o.a < 0) ∨ (f = .overflow ∧ 3037000500 < o.a) := by
  obtain ⟨ha, -, -⟩ := (Operands.inRange_iff o).1 ho
  rcases lt_or_ge o.a 0 with hneg | h0
  · rw [runFermat_of_error (fermat_of_neg hneg)] at h; cases h; exact .inr (.inl ⟨rfl, hneg⟩)
  rcases lt_or_ge o.a 2 with hlt | h2
  · rw [runFermat_of_error (fermat_of_lt_two h0 hlt)] at h; cases h; exact .inl ⟨rfl, by omega⟩
  rcases fermat_cases h2 ha with ⟨-, hfermat⟩ | ⟨w, -, hw, -, ⟨-, -, hfermat⟩ | ⟨hover, hfermat⟩⟩
  · rw [runFermat_of_fermat hfermat] at h; cases h
  · rw [runFermat_of_fermat hfermat] at h; cases h
  · rw [runFermat_of_error hfermat] at h
    cases h
    refine .inr (.inr ⟨rfl, ?_⟩)
    by_contra hle
    exact not_fermatOverflows h2 (by omega) hw hover

/-- Settles O33: the recorded fault is the function's, and each function's faults are traced to the operation that raises them. -/
theorem faultsEachCommandCanRaise : Obligations.FaultsEachCommandCanRaise := by
  intro i s t f hexec hfaulted
  obtain rfl := eq_execute_of_exec hexec
  have hrun := error_of_execute_faulted hfaulted
  have hin := State.sample_inRange s
  cases i with
  | nop => cases hrun
  | emod => exact runEmod_error hrun
  | modpow => exact modpow_error_cases (runModpow_error hrun)
  | gcd => exact runGcd_error hrun
  | xgcd => exact runXgcd_error hin hrun
  | modinv => exact runModinv_error hin hrun
  | fermat => exact runFermat_error hin hrun

/-- Settles O28: the lifecycle has two ends, and no command's own fault is that of an illegal word. -/
theorem everyCommandCompletesOrRecordsItsFault : Obligations.EveryCommandCompletesOrRecordsItsFault := by
  intro i s
  refine ⟨_, exec_eq_execute i s, execute_frame _ s, ?_⟩
  cases hrun : commandFunction (.command i) s.sample with
  | ok r => exact .inl ⟨_, _, _, _, _, execute_completed_of_ok hrun⟩
  | error f =>
    have hfaulted := execute_faulted hrun
    refine .inr ⟨f, ?_, hfaulted⟩
    rintro rfl
    have hcause := faultsEachCommandCanRaise i s _ _ (exec_eq_execute i s) hfaulted
    cases i <;> simp at hcause

/-- Within I64 only 1 has the pattern of 1. -/
theorem toBits_eq_one_iff {v : Int} (h : inI64 v = true) : toBits v = 1#64 ↔ v = 1 :=
  ⟨fun hbits => by rw [← toInt_toBits h, hbits, toInt_one], fun hv => by rw [hv, toBits_one]⟩

/-- Settles O32: after a fault the flags are 0; otherwise they are the results' flags, which test the integer RES0 or RES2 holds. -/
theorem flagsEachCommandSets : Obligations.FlagsEachCommandSets := by
  intro i s t hexec
  obtain rfl := eq_execute_of_exec hexec
  cases hrun : commandFunction (.command i) s.sample with
  | error f =>
    have hfaulted := execute_faulted hrun
    rw [hfaulted.err, hfaulted.prime, hfaulted.coprime]
    refine ⟨?_, by simp, by simp⟩
    rintro rfl
    cases hrun
  | ok r =>
    obtain ⟨h0, -, h2⟩ := commandFunction_inRange (State.sample_inRange s) hrun
    have hflags := commandFunction_flags hrun
    have hcompleted := execute_completed_of_ok hrun
    rw [hcompleted.err, hcompleted.prime, hcompleted.coprime, execute_of_ok hrun, State.complete_res0, State.complete_res2,
      toBits_eq_one_iff h0, toBits_eq_one_iff h2]
    refine ⟨fun _ => rfl, ?_, ?_⟩
    · rw [hflags.prime_iff, eq_self_iff_true, true_and]
    · rw [hflags.coprime_iff, eq_self_iff_true, true_and]

/-- Settles O11: each command's row is its result on the operands 0, 0, 0. -/
theorem commandsOnResetOperands : Obligations.CommandsOnResetOperands := by
  intro s ha hb hc
  have ha0 : toInt s.opa = 0 := by rw [ha, toInt_zero]
  have hb0 : toInt s.opb = 0 := by rw [hb, toInt_zero]
  have hxgcd : xgcd (toInt s.opa) (toInt s.opb) = .ok (.start 0 0) := by rw [ha0, hb0, xgcd_zero le_rfl]
  have hmodinv : modinv (toInt s.opa) (toInt s.opb) = .ok (1, 0) := by
    rw [ha0, hb0] at hxgcd ⊢
    exact modinv_of_nonneg le_rfl le_rfl rfl rfl hxgcd
  have hgcd : runGcd s.sample = .ok (gcdResults 0) := by
    rw [runGcd_of_nonneg ha0.ge hb0.ge, State.sample_a, State.sample_b, ha0, hb0, Int.gcd_self, Int.natAbs_zero, Nat.cast_zero]
  refine ⟨?nop, ?emod, ?modpow, ⟨_, exec_gcd s, execute_completed_of_ok (i := .gcd) hgcd⟩, ?xgcd, ?modinv, ?fermat⟩
  case nop => obtain ⟨t, ht, -, h⟩ := nopClearsAndCompletes s; exact ⟨t, ht, h⟩
  case emod => obtain ⟨t, ht, -, h⟩ := (emodCommandLeavesTheRemainder s).2 hb0; exact ⟨t, ht, h⟩
  case modpow =>
    obtain ⟨t, ht, -, h⟩ := exec_modpow_of_error (s := s) (modpow_of_lt_one (by rw [hb0]; exact zero_lt_one))
    exact ⟨t, ht, h⟩
  case xgcd => obtain ⟨t, ht, -, h⟩ := exec_xgcd_of_ok hxgcd; exact ⟨t, ht, h⟩
  case modinv => obtain ⟨t, ht, -, h⟩ := exec_modinv_of_ok hmodinv; exact ⟨t, ht, h⟩
  case fermat =>
    obtain ⟨t, ht, -, h⟩ := exec_fermat_of_error (s := s) (fermat_of_lt_two ha0.ge (by rw [ha0]; exact zero_lt_two))
    exact ⟨t, ht, h⟩

end Sys2Proof.Machine
end
